-- ==== Sys2Proof/Word.lean ====
section
/-! DEFINITION. The word types of DC-FE. Spec: 00_scope.md R9 (widths), 00_scope.md §5 (bit 0 is the least
significant bit, every value unsigned). -/

namespace Sys2Proof

/-- A logical or wire byte (R9: the wire byte is 8 bits). -/
abbrev Byte := BitVec 8

/-- A checksum value (R9: the checksum register is 16 bits). -/
abbrev Half := BitVec 16

/-- A sample word (R9: the sample words are 32 bits each). -/
abbrev Word := BitVec 32

/-- A slot number (R9: the slot counter is 5 bits). -/
abbrev Slot := BitVec 5

end Sys2Proof
end

