-- ==== Sys2Proof/Config.lean ====
section
/-! DEFINITION. What one elaborated DC-FE fixes (00_scope.md R6, R7), the input port values of a cycle
(10_state.md R24, R25, R28), and the values the spec leaves open: the marker and header bytes, and the port values of
a cycle that no listed stimulus covers. -/

namespace Sys2Proof

/-- Byte order of a field on the wire: P_FLOAT_ORDER and P_CRC_ORDER (R6). -/
inductive ByteOrder where
  | le
  | be
  deriving DecidableEq, Repr, Inhabited

/-- The elaboration parameters of R6, each under the spec's name without its `P_`. -/
structure Params where
  /-- P_SOM, the start-of-message marker. -/
  som : Byte
  /-- P_EOM, the end-of-message marker. -/
  eom : Byte
  /-- P_ESC, the escape sentinel. -/
  esc : Byte
  /-- P_LEN, the declared-length constant. -/
  len : Byte
  /-- P_CMD, the command code. -/
  cmd : Byte
  /-- P_FLAG, the flag byte. -/
  flag : Byte
  /-- P_CRC_INIT, the checksum's initial value. -/
  crcInit : Half
  /-- P_FLOAT_ORDER, the byte order of pitch and roll. -/
  floatOrder : ByteOrder
  /-- P_CRC_ORDER, the byte order of the checksum. -/
  crcOrder : ByteOrder
  deriving DecidableEq, Repr, Inhabited

/-- W1 of R7: P_ESC >= 0x80. -/
def Params.w1 (p : Params) : Bool := decide (0x80#8 ≤ p.esc)

/-- W2 of R7: P_SOM >= P_ESC. -/
def Params.w2 (p : Params) : Bool := decide (p.esc ≤ p.som)

/-- W3 of R7: P_EOM >= P_ESC. -/
def Params.w3 (p : Params) : Bool := decide (p.esc ≤ p.eom)

/-- W4 of R7: P_SOM, P_EOM and P_ESC are pairwise distinct. -/
def Params.w4 (p : Params) : Bool :=
  decide (p.som ≠ p.eom) && decide (p.som ≠ p.esc) && decide (p.eom ≠ p.esc)

/-- A parameter set is legal when W1 to W4 all hold (R7). -/
def Params.legal (p : Params) : Bool := p.w1 && p.w2 && p.w3 && p.w4

/-- The test configuration TC-A of 95_test_vectors.md §0: invented for testing, NOT the device's values. The model uses it
for one thing only: it shows that a legal parameter set exists. -/
def Params.tcA : Params :=
  { som := 0xA1, eom := 0xA2, esc := 0xA0, len := 0x13, cmd := 0x01, flag := 0x02,
    crcInit := 0xE295, floatOrder := .le, crcOrder := .le }

/-- An elaborated DC-FE: a parameter set together with its legality, so that an illegal set cannot be elaborated at all
(R7, R181: "refuse at elaboration"). The field defaults only show that the type is inhabited; no definition of the model
takes them. -/
structure Elaboration where
  params : Params := Params.tcA
  legal : params.legal = true := by decide
  deriving DecidableEq, Repr, Inhabited

/-- The OPEN parameters of R6 (D8): a legal set of which nothing else is known. It has no body. -/
opaque Config.openElaboration : Elaboration

/-- This hardware (R6): the OPEN bytes stay open; P_CRC_INIT = 0xE295, P_FLOAT_ORDER = LE and P_CRC_ORDER = LE. -/
def Config.hardware : Elaboration where
  params :=
    { Config.openElaboration.params with crcInit := 0xE295, floatOrder := .le, crcOrder := .le }
  legal := Config.openElaboration.legal

/-- The input port values sampled in one cycle (R24, R25, R28; `clk` is the step itself). The field names are the port names.
-/
structure Ports where
  rst : Bool
  smp_valid : Bool
  smp_pitch : Word
  smp_roll : Word
  tx_ready : Bool
  deriving DecidableEq, Repr, Inhabited

/-- FREE VALUE: the port values of the `n`-th cycle for which no stimulus is listed. The environment drives the ports as it
likes (R24, R186), so the constant has no body (log entry 3). -/
opaque Config.freePorts : Nat → Ports

end Sys2Proof
end

