-- ==== Sys2Proof/Syntax.lean ====
section
/-! DEFINITION. The operations of DC-FE. The block runs no instruction stream: its "instruction set" is the set of
operations that four decode vectors select (30_encoding.md R70 to R77). `Instr` has one constructor per row of
spec/opcode_table.json; the four small types below it are the rows of one format each. No row carries an operand field. -/

namespace Sys2Proof

/-- The four formats of 30_encoding.md: the cycle event, the slot control word, the stuffing decision and the checksum
action. -/
inductive Format where
  | ev
  | ctl
  | stf
  | crcv
  deriving DecidableEq, Repr

/-- How many bits a vector of the format has (R70, R71, R76, R77). -/
def Format.width : Format → Nat
  | .ev => 4
  | .ctl => 6
  | .stf => 3
  | .crcv => 3

/-- The slot classes of R72. cls = 01 (checksummed but not escaped) is reserved and has no constructor. -/
inductive SlotClass where
  | raw
  | sc
  | s
  deriving DecidableEq, Repr

/-- cls[1] of R71: the logical byte goes through the byte-stuffing engine. -/
def SlotClass.stuffEn : SlotClass → Bool
  | .raw => false
  | .sc => true
  | .s => true

/-- cls[0] of R71, the checksum qualifier: the logical byte updates the accumulator. -/
def SlotClass.crcEn : SlotClass → Bool
  | .raw => false
  | .sc => true
  | .s => false

/-- The operations of format EV (R70). -/
inductive EvOp where
  | reset
  | accept
  | idleWait
  | stall
  | xfer
  deriving DecidableEq, Repr

/-- The slot micro-operations, format CTL (R74). -/
inductive CtlOp where
  | rawSom
  | scLen
  | scCmd
  | scFlag
  | scPb0
  | scPb1
  | scPb2
  | scPb3
  | scRb0
  | scRb1
  | scRb2
  | scRb3
  | scZero
  | sCk0
  | sCk1
  | rawEom
  deriving DecidableEq, Repr

/-- The stuffing operations, format STF (R76). -/
inductive StfOp where
  | rawemit
  | pass
  | head
  | tail
  deriving DecidableEq, Repr

/-- The checksum actions, format CRC (R77). -/
inductive CrcOp where
  | rst
  | init
  | upd
  | hold
  deriving DecidableEq, Repr

/-- Every operation of spec/opcode_table.json, one constructor per row, in the table's order. -/
inductive Instr where
  /-- RESET (R200) -/
  | reset
  /-- ACCEPT (R110) -/
  | accept
  /-- IDLE_WAIT (R111) -/
  | idleWait
  /-- STALL (R112) -/
  | stall
  /-- XFER (R113) -/
  | xfer
  /-- EMIT.RAW SOM (R115) -/
  | emitRawSom
  /-- EMIT.SC LEN (R116) -/
  | emitScLen
  /-- EMIT.SC CMD (R117) -/
  | emitScCmd
  /-- EMIT.SC FLAG (R118) -/
  | emitScFlag
  /-- EMIT.SC PB0 (R119) -/
  | emitScPb0
  /-- EMIT.SC PB1 (R120) -/
  | emitScPb1
  /-- EMIT.SC PB2 (R121) -/
  | emitScPb2
  /-- EMIT.SC PB3 (R122) -/
  | emitScPb3
  /-- EMIT.SC RB0 (R123) -/
  | emitScRb0
  /-- EMIT.SC RB1 (R124) -/
  | emitScRb1
  /-- EMIT.SC RB2 (R125) -/
  | emitScRb2
  /-- EMIT.SC RB3 (R126) -/
  | emitScRb3
  /-- EMIT.SC ZERO (R127) -/
  | emitScZero
  /-- EMIT.S CK0 (R128) -/
  | emitSCk0
  /-- EMIT.S CK1 (R129) -/
  | emitSCk1
  /-- EMIT.RAW EOM (R130) -/
  | emitRawEom
  /-- RAWEMIT (R145) -/
  | rawemit
  /-- PASS (R142) -/
  | pass
  /-- HEAD (R143) -/
  | head
  /-- TAIL (R144) -/
  | tail
  /-- CRC_RST (R200) -/
  | crcRst
  /-- CRC_INIT (R162) -/
  | crcInit
  /-- CRC_UPD (R163) -/
  | crcUpd
  /-- CRC_HOLD (R164) -/
  | crcHold
  deriving DecidableEq, Repr

/-- The instruction of an EV row. -/
def EvOp.toInstr : EvOp → Instr
  | .reset => .reset
  | .accept => .accept
  | .idleWait => .idleWait
  | .stall => .stall
  | .xfer => .xfer

/-- The instruction of a CTL row. -/
def CtlOp.toInstr : CtlOp → Instr
  | .rawSom => .emitRawSom
  | .scLen => .emitScLen
  | .scCmd => .emitScCmd
  | .scFlag => .emitScFlag
  | .scPb0 => .emitScPb0
  | .scPb1 => .emitScPb1
  | .scPb2 => .emitScPb2
  | .scPb3 => .emitScPb3
  | .scRb0 => .emitScRb0
  | .scRb1 => .emitScRb1
  | .scRb2 => .emitScRb2
  | .scRb3 => .emitScRb3
  | .scZero => .emitScZero
  | .sCk0 => .emitSCk0
  | .sCk1 => .emitSCk1
  | .rawEom => .emitRawEom

/-- The instruction of an STF row. -/
def StfOp.toInstr : StfOp → Instr
  | .rawemit => .rawemit
  | .pass => .pass
  | .head => .head
  | .tail => .tail

/-- The instruction of a CRC row. -/
def CrcOp.toInstr : CrcOp → Instr
  | .rst => .crcRst
  | .init => .crcInit
  | .upd => .crcUpd
  | .hold => .crcHold

end Sys2Proof
end

