-- ==== Sys2Proof/WellFormed.lean ====
section
/-! DEFINITION. What is well formed before anything runs: a parameter set (00_scope.md R7, refused at elaboration by the
name of the condition it breaks) and a vector of a format (it fits the format's width and is not reserved,
30_encoding.md R70, R74, R76 to R78). An `Instr` carries no operand, so every `Instr` is well formed. -/

namespace Sys2Proof

/-- Why a parameter set is refused at elaboration: the first of W1 to W4 of R7 that it breaks. Safe: an illegal set gets no
meaning. -/
inductive IllegalParams where
  | escBelow0x80
  | somBelowEsc
  | eomBelowEsc
  | controlBytesNotDistinct
  deriving DecidableEq, Repr

/-- The check of R7, naming the condition that fails. -/
def Params.check (p : Params) : Option IllegalParams :=
  if p.w1 = false then some .escBelow0x80
  else if p.w2 = false then some .somBelowEsc
  else if p.w3 = false then some .eomBelowEsc
  else if p.w4 = false then some .controlBytesNotDistinct
  else none

/-- Elaborate an instance (R205 step 1): legal sets only. -/
def Params.elaborate (p : Params) : Option Elaboration :=
  if h : p.legal = true then some { params := p, legal := h } else none

/-- The reserved encodings of R78 and the vectors that do not fit their format, as a list of the vectors a format DOES have:
EV all 16 (R70), CTL the words of the slot ROM (R74), STF without 01x and 110 (R76), CRC without 011 (R77). -/
def Format.vectors : Format → List Nat
  | .ev => List.range 16
  | .ctl =>
    [0x00, 0x0F, 0x2D, 0x2E, 0x31, 0x32, 0x33, 0x34] ++
    [0x35, 0x36, 0x37, 0x38, 0x39, 0x3A, 0x3B, 0x3C]
  | .stf => [0, 1, 4, 5, 7]
  | .crcv => [0, 1, 2, 4, 5, 6, 7]

/-- A vector of the format: it fits the width and is not reserved. -/
def wellFormedVector (f : Format) (w : Nat) : Bool := f.vectors.contains w

/-- Every instruction is well formed: no row of spec/opcode_table.json has an operand field. -/
def Instr.wellFormed (_ : Instr) : Bool := true

end Sys2Proof
end

