-- ==== Sys2Proof/Decode.lean ====
section
/-! DEFINITION. The four decoders of 30_encoding.md (R70, R71 to R74, R76, R77), total and rejecting by name, and after
them the encoder, written from the match and mask columns of the same tables. -/

namespace Sys2Proof

/-- Why a vector or a slot number has no operation (30_encoding.md R78). Raised by the decoders below; each is a refusal in
the machine, which is safe: the spec gives these no value. -/
inductive DecodeError where
  /-- The word has more bits than the format. -/
  | tooWide
  /-- Slot values 19..31. -/
  | reservedSlot
  /-- A CTL word that is not in the slot ROM, every cls = 01 word among them. -/
  | reservedControlWord
  /-- STF patterns 01x and 110. -/
  | reservedStuffing
  /-- CRC pattern 011. -/
  | reservedChecksumAction
  deriving DecidableEq, Repr

/-! ## Decoders -/

/-- Format EV from its four fields {rst, st, smp_valid, tx_ready}; `st` is true for RUN (R70). -/
def decodeEvBits (rst st smp_valid tx_ready : Bool) : EvOp :=
  if rst then .reset
  else if st then (if tx_ready then .xfer else .stall)
  else (if smp_valid then .accept else .idleWait)

/-- Format EV, the packed vector ev[3:0] (R70). -/
def decodeEv (w : BitVec 4) : EvOp :=
  decodeEvBits (w.getLsbD 3) (w.getLsbD 2) (w.getLsbD 1) (w.getLsbD 0)

/-- cls[1] of a slot control word, ctl[5]: stuff-enable (R71). -/
def ctlStuffEn (c : BitVec 6) : Bool := c.getLsbD 5

/-- cls[0] of a slot control word, ctl[4]: the checksum qualifier (R71). -/
def ctlCrcEn (c : BitVec 6) : Bool := c.getLsbD 4

/-- src[3:0] of a slot control word, ctl[3:0] (R71). -/
def ctlSrc (c : BitVec 6) : BitVec 4 := c.extractLsb' 0 4

/-- Format CTL (R71 to R74): cls[1:0] chooses the class, src[3:0] the source; only the words of the slot ROM are operations.
-/
def decodeCtl (c : BitVec 6) : Except DecodeError CtlOp :=
  match ctlStuffEn c, ctlCrcEn c, (ctlSrc c).toNat with
  | false, false, 0x0 => .ok .rawSom
  | false, false, 0xF => .ok .rawEom
  | true, true, 0x1 => .ok .scLen
  | true, true, 0x2 => .ok .scCmd
  | true, true, 0x3 => .ok .scFlag
  | true, true, 0x4 => .ok .scPb0
  | true, true, 0x5 => .ok .scPb1
  | true, true, 0x6 => .ok .scPb2
  | true, true, 0x7 => .ok .scPb3
  | true, true, 0x8 => .ok .scRb0
  | true, true, 0x9 => .ok .scRb1
  | true, true, 0xA => .ok .scRb2
  | true, true, 0xB => .ok .scRb3
  | true, true, 0xC => .ok .scZero
  | true, false, 0xD => .ok .sCk0
  | true, false, 0xE => .ok .sCk1
  | _, _, _ => .error .reservedControlWord

/-- Format STF from its three fields {cls[1], tail, ge} (R76). -/
def decodeStfBits (stuffEn tail ge : Bool) : Except DecodeError StfOp :=
  if stuffEn then
    if tail then (if ge then .ok .tail else .error .reservedStuffing)
    else .ok (if ge then .head else .pass)
  else if tail then .error .reservedStuffing
  else .ok .rawemit

/-- Format STF, the packed vector stf[2:0] (R76). -/
def decodeStf (w : BitVec 3) : Except DecodeError StfOp :=
  decodeStfBits (w.getLsbD 2) (w.getLsbD 1) (w.getLsbD 0)

/-- Format CRC from its three fields {rst, acc, q} (R77). -/
def decodeCrcvBits (rst acc q : Bool) : Except DecodeError CrcOp :=
  if rst then .ok .rst
  else if acc then (if q then .error .reservedChecksumAction else .ok .init)
  else .ok (if q then .upd else .hold)

/-- Format CRC, the packed vector crcv[2:0] (R77). -/
def decodeCrcv (w : BitVec 3) : Except DecodeError CrcOp :=
  decodeCrcvBits (w.getLsbD 2) (w.getLsbD 1) (w.getLsbD 0)

/-- The slot ROM, CTL(slot) (R74). It is the block's only "code" (R29); nothing writes it. -/
def slotRom (slot : Slot) : Except DecodeError (BitVec 6) :=
  match slot.toNat with
  | 0 => .ok 0x00
  | 1 => .ok 0x31
  | 2 => .ok 0x32
  | 3 => .ok 0x33
  | 4 => .ok 0x34
  | 5 => .ok 0x35
  | 6 => .ok 0x36
  | 7 => .ok 0x37
  | 8 => .ok 0x38
  | 9 => .ok 0x39
  | 10 => .ok 0x3A
  | 11 => .ok 0x3B
  | 12 => .ok 0x3C
  | 13 => .ok 0x3C
  | 14 => .ok 0x3C
  | 15 => .ok 0x3C
  | 16 => .ok 0x2D
  | 17 => .ok 0x2E
  | 18 => .ok 0x0F
  | _ => .error .reservedSlot

/-- The decoder over all formats: total on any format and byte, rejecting by name. -/
def decode (f : Format) (w : Byte) : Except DecodeError Instr :=
  if w.toNat < 2 ^ f.width then
    match f with
    | .ev => .ok (decodeEv (w.setWidth 4)).toInstr
    | .ctl => (decodeCtl (w.setWidth 6)).map CtlOp.toInstr
    | .stf => (decodeStf (w.setWidth 3)).map StfOp.toInstr
    | .crcv => (decodeCrcv (w.setWidth 3)).map CrcOp.toInstr
  else .error .tooWide

/-! ## Encoder -/

/-- One row of spec/opcode_table.json: its format and its match and mask. -/
structure Encoding where
  format : Format
  value : Byte
  mask : Byte
  deriving DecidableEq, Repr

/-- The match and mask columns of R70, R74, R76 and R77. -/
def Instr.encoding : Instr → Encoding
  | .reset => ⟨.ev, 0x8, 0x8⟩
  | .accept => ⟨.ev, 0x2, 0xE⟩
  | .idleWait => ⟨.ev, 0x0, 0xE⟩
  | .stall => ⟨.ev, 0x4, 0xD⟩
  | .xfer => ⟨.ev, 0x5, 0xD⟩
  | .emitRawSom => ⟨.ctl, 0x00, 0x3F⟩
  | .emitScLen => ⟨.ctl, 0x31, 0x3F⟩
  | .emitScCmd => ⟨.ctl, 0x32, 0x3F⟩
  | .emitScFlag => ⟨.ctl, 0x33, 0x3F⟩
  | .emitScPb0 => ⟨.ctl, 0x34, 0x3F⟩
  | .emitScPb1 => ⟨.ctl, 0x35, 0x3F⟩
  | .emitScPb2 => ⟨.ctl, 0x36, 0x3F⟩
  | .emitScPb3 => ⟨.ctl, 0x37, 0x3F⟩
  | .emitScRb0 => ⟨.ctl, 0x38, 0x3F⟩
  | .emitScRb1 => ⟨.ctl, 0x39, 0x3F⟩
  | .emitScRb2 => ⟨.ctl, 0x3A, 0x3F⟩
  | .emitScRb3 => ⟨.ctl, 0x3B, 0x3F⟩
  | .emitScZero => ⟨.ctl, 0x3C, 0x3F⟩
  | .emitSCk0 => ⟨.ctl, 0x2D, 0x3F⟩
  | .emitSCk1 => ⟨.ctl, 0x2E, 0x3F⟩
  | .emitRawEom => ⟨.ctl, 0x0F, 0x3F⟩
  | .rawemit => ⟨.stf, 0x0, 0x6⟩
  | .pass => ⟨.stf, 0x4, 0x7⟩
  | .head => ⟨.stf, 0x5, 0x7⟩
  | .tail => ⟨.stf, 0x7, 0x7⟩
  | .crcRst => ⟨.crcv, 0x4, 0x4⟩
  | .crcInit => ⟨.crcv, 0x2, 0x7⟩
  | .crcUpd => ⟨.crcv, 0x1, 0x7⟩
  | .crcHold => ⟨.crcv, 0x0, 0x7⟩

/-- All bits of a vector of the format. -/
def Format.allOnes (f : Format) : Byte := BitVec.ofNat 8 (2 ^ f.width - 1)

/-- The word of an instruction whose don't-care bits (the bits of its format outside its mask) are taken from `fill`. -/
def encode (i : Instr) (fill : Byte) : Byte :=
  i.encoding.value ||| (fill &&& (i.encoding.format.allOnes &&& ~~~i.encoding.mask))

/-! ## The host's table words -/

/-- The formats a table word of `nbits` bits may be of, in the table's order. The host gives every row in whole bytes, so a word of 8 bits does
not say its format; a bit count of 3, 4 or 6 is taken as the format's own width. -/
def tableFormats (nbits : Nat) : List Format :=
  match nbits with
  | 3 => [.stf, .crcv]
  | 4 => [.ev]
  | 6 => [.ctl]
  | _ => [.ev, .ctl, .stf, .crcv]

/-- The word decodes in the format. -/
def decodesAs (w : Nat) (f : Format) : Bool :=
  match decode f (BitVec.ofNat 8 w) with
  | .ok _ => true
  | .error _ => false

/-- The word is the match value of a row of the format: it decodes and its don't-care bits are 0. -/
def isMatchOf (w : Nat) (f : Format) : Bool :=
  match decode f (BitVec.ofNat 8 w) with
  | .ok i => decide (i.encoding.value.toNat = w)
  | .error _ => false

/-- Which format a table word is read as (log entry 7), since the table's formats share bit patterns: the first one of which it is a row's
match value, and if there is none, the first one in which it decodes. DESIGN CHOICE (log entry 7): a word that decodes in none of them (CTL 0x15, or 011
as 3 bits) is a reserved encoding, for which R78 gives no value; its format is EV here, although `decodeTableWord` answers none for it. -/
def tableFormat (nbits w : Nat) : Format :=
  match (tableFormats nbits).find? (isMatchOf w) with
  | some f => f
  | none =>
    match (tableFormats nbits).find? (decodesAs w) with
    | some f => f
    | none => .ev

/-- The instruction the decoder reads from a word of the opcode table. -/
def decodeTableWord (nbits w : Nat) : Option Instr :=
  if w < 256 then
    match decode (tableFormat nbits w) (BitVec.ofNat 8 w) with
    | .ok i => some i
    | .error _ => none
  else none

end Sys2Proof
end

