-- ==== Sys2Proof/Machine/State.lean ====
section
/-! DEFINITION. The state of one DC-FE and its environment, the fault and refusal reasons, and the state right after reset.
Spec: 10_state.md R20 (the six state elements), R22 (one step per rising edge), 70_reset_and_hazards.md R200 (reset). -/

namespace Sys2Proof.Machine

/-- The state element `st` (R20): 0 = IDLE, 1 = RUN. -/
inductive St where
  | idle
  | run
  deriving DecidableEq, Repr

/-- `st` as the bit the event vector reads (R70): true for RUN. -/
def St.isRun : St → Bool
  | .idle => false
  | .run => true

/-- One byte delivered by a transfer, with the marker outputs of its cycle (R25, R26). -/
structure WireByte where
  /-- tx_data -/
  data : Byte
  /-- tx_sof -/
  sof : Bool
  /-- tx_last -/
  last : Bool
  deriving DecidableEq, Repr

/-- DC-FE raises no exception of any kind (60_exceptions.md R180, R184), so no step ends in a fault: the type is empty, and
nobody raises one. -/
inductive Fault where
  deriving DecidableEq, Repr

/-- Why a step has no meaning. All of these are the model's (D24: "toward unprovable for unreachable states only"), so each is
safe. -/
inductive Refusal where
  /-- Raised by an arm of `exec` whose instruction has no meaning yet. No arm raises it. Safe. -/
  | notModelled (mnemonic : String)
  /-- Raised by every meaning: the cycle's decode vector of the instruction's format selects another operation, so the spec gives
  this one no effect in this state (R70, R74, R76, R77). `step` never meets it: it runs the operation that is selected. Safe. -/
  | notSelected
  /-- Raised by every meaning but RESET and CRC_RST: st = IDLE with slot or tail not 0, outside the invariant of R23 (a). Safe. -/
  | idlePosition
  /-- Raised by every meaning but RESET and CRC_RST: a reserved slot, control word or vector (R78; R23 (b) and (c)). Safe. -/
  | reserved (why : DecodeError)
  deriving DecidableEq, Repr

/-- The machine. The first six fields are the block's state elements and hold all of them (R20: "exactly the six state elements
below and no others"). The others are the model's own: the environment at the block's ports, and the parameters the instance was
elaborated with (INVENTORY.md, State). -/
structure State where
  /-- Whether a frame is in flight. -/
  st : St
  /-- Index of the logical byte being emitted. -/
  slot : Slot
  /-- The head of this slot's escape pair has been transferred and the tail byte is presented. -/
  tail : Bool
  /-- The checksum accumulator. -/
  crc : Half
  /-- The captured pitch word. -/
  pitch_q : Word
  /-- The captured roll word. -/
  roll_q : Word
  /-- ENVIRONMENT: the input port values of the current cycle (R24, R25). -/
  ports : Ports
  /-- ENVIRONMENT: the input port values of the following cycles, the next cycle first (R80's stimulus program). -/
  stimulus : List Ports
  /-- ENVIRONMENT: how many cycles took free port values, the argument of `Config.freePorts`. -/
  freeCycles : Nat
  /-- ENVIRONMENT: the wire stream, the bytes delivered so far, oldest first (R25). -/
  wire : List WireByte
  /-- The parameters the instance was elaborated with: constants (R6), no state element. -/
  cfg : Elaboration
  deriving DecidableEq, Repr

/-- Input ports with nothing offered, nothing taken and rst released (R205 step 3). -/
def quietPorts : Ports :=
  { rst := false, smp_valid := false, smp_pitch := 0, smp_roll := 0, tx_ready := false }

/-- The machine right after a reset edge (R200, R204), of this hardware's parameters (R6), with an environment that has offered
and taken nothing yet (log entry 2). -/
def State.reset : State where
  st := .idle
  slot := 0
  tail := false
  crc := Config.hardware.params.crcInit
  pitch_q := 0
  roll_q := 0
  ports := quietPorts
  stimulus := []
  freeCycles := 0
  wire := []
  cfg := Config.hardware

end Sys2Proof.Machine
end

