-- ==== Sys2Proof/Machine/Operands.lean ====
section
/-! DEFINITION. Operand assembly: the wire-order bytes of the sample words and of the checksum (20_memory.md R51, R52), the logical byte
of a source (30_encoding.md R73) and of the current slot (R75), and the reachable-state check of 10_state.md R23. -/

namespace Sys2Proof.Machine

/-- B_k(w), the k-th wire-order byte of a sample word (R51). -/
def floatByte (order : ByteOrder) (k : Fin 4) (w : Word) : Byte :=
  match order with
  | .le => w.extractLsb' (8 * k.val) 8
  | .be => w.extractLsb' (24 - 8 * k.val) 8

/-- C_k(c), the k-th wire-order byte of the checksum (R52). -/
def crcByte (order : ByteOrder) (k : Fin 2) (c : Half) : Byte :=
  match order with
  | .le => c.extractLsb' (8 * k.val) 8
  | .be => c.extractLsb' (8 - 8 * k.val) 8

/-- P_ESC of the instance. -/
abbrev State.esc (s : State) : Byte := s.cfg.params.esc

/-- B_k(pitch_q). -/
def State.pitchByte (s : State) (k : Fin 4) : Byte := floatByte s.cfg.params.floatOrder k s.pitch_q

/-- B_k(roll_q). -/
def State.rollByte (s : State) (k : Fin 4) : Byte := floatByte s.cfg.params.floatOrder k s.roll_q

/-- C_k(crc). -/
def State.checksumByte (s : State) (k : Fin 2) : Byte := crcByte s.cfg.params.crcOrder k s.crc

/-- The logical byte that src[3:0] selects (R73). -/
def State.sourceByte (s : State) (src : BitVec 4) : Byte :=
  match src.toNat with
  | 0x0 => s.cfg.params.som
  | 0x1 => s.cfg.params.len
  | 0x2 => s.cfg.params.cmd
  | 0x3 => s.cfg.params.flag
  | 0x4 => s.pitchByte 0
  | 0x5 => s.pitchByte 1
  | 0x6 => s.pitchByte 2
  | 0x7 => s.pitchByte 3
  | 0x8 => s.rollByte 0
  | 0x9 => s.rollByte 1
  | 0xA => s.rollByte 2
  | 0xB => s.rollByte 3
  | 0xC => 0x00
  | 0xD => s.checksumByte 0
  | 0xE => s.checksumByte 1
  | _ => s.cfg.params.eom

/-- L(slot) for the control word of the slot (R75). -/
def State.logicalByte (s : State) (ctl : BitVec 6) : Byte := s.sourceByte (ctlSrc ctl)

/-- ge of R76: the logical byte is at or above the escape sentinel, unsigned. -/
def State.needsEscape (s : State) (v : Byte) : Bool := decide (s.esc ≤ v)

/-- Why the sequencer's position lies outside the reachable-state invariant of R23, if it does: (a) IDLE away from slot 0 or with
tail = 1; (b) a slot above 18; (c) tail = 1 in a slot that is not stuffed or whose logical byte is below P_ESC. -/
def State.positionRefusal (s : State) : Option Refusal :=
  match s.st with
  | .idle => if s.slot = 0 ∧ s.tail = false then none else some .idlePosition
  | .run =>
    match slotRom s.slot with
    | .error e => some (.reserved e)
    | .ok c =>
      if s.tail && !(ctlStuffEn c && s.needsEscape (s.logicalByte c)) then
        some (.reserved .reservedStuffing)
      else none

/-- The reachable-state invariant of R23, (a) to (c). -/
abbrev State.Coherent (s : State) : Prop := s.positionRefusal = none

end Sys2Proof.Machine
end

