-- ==== Sys2Proof/Machine/Flags.lean ====
section
/-! DEFINITION. DC-FE has no flags (10_state.md R30): its status is visible only through its outputs. This file holds the outputs (R26)
and the handshakes they make with the input ports (R24, R25, 30_encoding.md R77). -/

namespace Sys2Proof.Machine

/-- The output ports (R28). -/
structure Outputs where
  smp_ready : Bool
  busy : Bool
  tx_valid : Bool
  tx_data : Byte
  tx_sof : Bool
  tx_last : Bool
  deriving DecidableEq, Repr

/-- smp_ready (R24, R26). -/
def State.smp_ready (s : State) : Bool := !s.st.isRun

/-- tx_valid, and busy with it (R26). -/
def State.tx_valid (s : State) : Bool := s.st.isRun

/-- tx_sof while the slot is presented (R26). -/
def State.tx_sof (s : State) : Bool := s.st.isRun && decide (s.slot = 0)

/-- tx_last while the slot is presented (R26). -/
def State.tx_last (s : State) : Bool := s.st.isRun && decide (s.slot = 18)

/-- tx_data (R26): 0 while IDLE; otherwise RAW, PASS or HEAD, TAIL. A slot outside the ROM presents no byte (R78). -/
def State.tx_data (s : State) : Option Byte :=
  match s.st with
  | .idle => some 0x00
  | .run =>
    match slotRom s.slot with
    | .error _ => none
    | .ok c =>
      let v := s.logicalByte c
      if ctlStuffEn c = false then some v
      else if s.tail = false then some (if s.needsEscape v then s.esc else v)
      else some (v - s.esc)

/-- The outputs of a cycle, a function of the state alone (R26). A state outside the invariant of R23 has none (R78, D24). -/
def State.outputs (s : State) : Option Outputs :=
  match s.positionRefusal, s.tx_data with
  | none, some d =>
    some { smp_ready := s.smp_ready, busy := s.st.isRun, tx_valid := s.tx_valid,
           tx_data := d, tx_sof := s.tx_sof, tx_last := s.tx_last }
  | _, _ => none

/-- The cycle is an accept: rst = 0, smp_valid = 1, smp_ready = 1 (R24). -/
def State.isAccept (s : State) : Bool := !s.ports.rst && s.ports.smp_valid && s.smp_ready

/-- The cycle is a transfer: rst = 0, tx_valid = 1, tx_ready = 1 (R25). -/
def State.isTransfer (s : State) : Bool := !s.ports.rst && s.tx_valid && s.ports.tx_ready

/-- acc of R77: (st = IDLE) & smp_valid. -/
def State.crcAcc (s : State) : Bool := !s.st.isRun && s.ports.smp_valid

/-- q of R77, for a slot whose checksum qualifier is `crcEn`: (st = RUN) & tx_ready & cls[0] & (tail = 0). -/
def State.crcQualifier (s : State) (crcEn : Bool) : Bool :=
  s.st.isRun && s.ports.tx_ready && crcEn && !s.tail

end Sys2Proof.Machine
end

