-- ==== Sys2Proof/Machine/Ops.lean ====
section
/-! DEFINITION. The shared operations of the block: the checksum update (42_checksum.md R161), the stuffing actions and the slot sequencing
(41_stuffing.md R142 to R145, 40_formatter.md R114), which operation each format selects in a cycle (30_encoding.md R70 to R78), reset
(70_reset_and_hazards.md R200), and how the environment moves on by one cycle. DC-FE takes no exception and has no return from one
(60_exceptions.md R180, R184, R185); reset is its only redirection. -/

namespace Sys2Proof.Machine

/-- The result of an operation. -/
abbrev Result := Host.Outcome State Fault Refusal

/-! ## Checksum accumulator -/

/-- crc_upd(c, b) (R161, first form). `n` and `t` are 8-bit values held in 16 bits, so that no shift of `t` drops a bit before the
mask. -/
def crcUpd (c : Half) (b : Byte) : Half :=
  let n : Half := ((c >>> 8) ^^^ b.setWidth 16) &&& 0xFF
  let t : Half := n ^^^ (n >>> 4)
  ((c ^^^ (t <<< 4) ^^^ (t >>> 3)) <<< 8) ^^^ ((t ^^^ (t <<< 5)) &&& 0xFF)

/-- The accumulator's next value under a checksum action, for the logical byte `v` (R162 to R164, R200). -/
def crcNext (op : CrcOp) (p : Params) (v : Byte) (c : Half) : Half :=
  match op with
  | .rst => p.crcInit
  | .init => p.crcInit
  | .upd => crcUpd c v
  | .hold => c

/-! ## Sequencing and stuffing -/

/-- Emit(b) (R25): one wire byte is delivered, with the tx_sof and tx_last of its cycle. -/
def State.deliver (s : State) (b : Byte) : State :=
  { s with wire := s.wire ++ [{ data := b, sof := s.tx_sof, last := s.tx_last }] }

/-- ADVANCE (R114). -/
def State.advance (s : State) : State :=
  if s.slot = 18 then { s with st := .idle, slot := 0 } else { s with slot := s.slot + 1 }

/-- What a stuffing action does at the transfer of the logical byte `v` (R142 to R145). -/
def State.stuffTransfer (s : State) (op : StfOp) (v : Byte) : State :=
  match op with
  | .rawemit => ({ s.deliver v with tail := false }).advance
  | .pass => ({ s.deliver v with tail := false }).advance
  | .head => { s.deliver s.esc with tail := true }
  | .tail => ({ s.deliver (v - s.esc) with tail := false }).advance

/-- The transfer of one wire byte of the logical byte `v` in a slot of class `cls`: the stuffing decision (R76) and the checksum action
(R77) are decoded from the state before the edge, and both take effect at the edge. -/
def State.transferByte (s : State) (cls : SlotClass) (v : Byte) : Result :=
  match decodeStfBits cls.stuffEn s.tail (s.needsEscape v) with
  | .error e => .refused (.reserved e)
  | .ok op =>
    match decodeCrcvBits s.ports.rst s.crcAcc (s.crcQualifier cls.crcEn) with
    | .error e => .refused (.reserved e)
    | .ok a => .next { s.stuffTransfer op v with crc := crcNext a s.cfg.params v s.crc }

/-- A slot micro-operation with the logical byte `v`: it acts at a transfer; in any other cycle it only presents its byte, and the
block's state is held (R112) or is the reset's to change (R201). -/
def State.emitSlot (s : State) (cls : SlotClass) (v : Byte) : Result :=
  if s.isTransfer then s.transferByte cls v else .next s

/-! ## Which operation a format selects in this cycle -/

/-- Format EV (R70). RESET acts whatever the prior state (R200); any other event of a state outside R23 is refused (R78). -/
def State.selectEv (s : State) : Except Refusal EvOp :=
  if s.ports.rst then .ok .reset
  else
    match s.positionRefusal with
    | some r => .error r
    | none => .ok (decodeEvBits s.ports.rst s.st.isRun s.ports.smp_valid s.ports.tx_ready)

/-- The control word CTL(slot) of the slot being emitted, in RUN (R74, R75). -/
def State.controlWord (s : State) : Except Refusal (BitVec 6) :=
  match s.positionRefusal with
  | some r => .error r
  | none =>
    match s.st with
    | .idle => .error .notSelected
    | .run =>
      match slotRom s.slot with
      | .error e => .error (.reserved e)
      | .ok c => .ok c

/-- Format CTL (R74): the micro-operation of the slot being emitted. -/
def State.selectCtl (s : State) : Except Refusal CtlOp :=
  match s.controlWord with
  | .error r => .error r
  | .ok c =>
    match decodeCtl c with
    | .error e => .error (.reserved e)
    | .ok op => .ok op

/-- Format STF (R76), decoded only when st = RUN. -/
def State.selectStf (s : State) : Except Refusal StfOp :=
  match s.controlWord with
  | .error r => .error r
  | .ok c =>
    match decodeStfBits (ctlStuffEn c) s.tail (s.needsEscape (s.logicalByte c)) with
    | .error e => .error (.reserved e)
    | .ok op => .ok op

/-- cls[0] of the slot being emitted; 0 while IDLE, where no control word is read. -/
def State.slotCrcEn (s : State) : Bool :=
  match s.controlWord with
  | .error _ => false
  | .ok c => ctlCrcEn c

/-- The logical byte of the slot being emitted; used only where a control word is read. -/
def State.slotByte (s : State) : Byte :=
  match s.controlWord with
  | .error _ => 0x00
  | .ok c => s.logicalByte c

/-- Format CRC (R77). CRC_RST acts whatever the prior state (R200); any other action of a state outside R23 is refused (R78). -/
def State.selectCrc (s : State) : Except Refusal CrcOp :=
  if s.ports.rst then .ok .rst
  else
    match s.positionRefusal with
    | some r => .error r
    | none =>
      match decodeCrcvBits s.ports.rst s.crcAcc (s.crcQualifier s.slotCrcEn) with
      | .error e => .error (.reserved e)
      | .ok a => .ok a

/-- Runs `k` if the format's selection is `op`; otherwise the operation has no effect in this cycle and is refused. -/
def runSelected {α : Type} [DecidableEq α] (sel : Except Refusal α) (op : α) (k : Result) : Result :=
  match sel with
  | .error r => .refused r
  | .ok o => if o = op then k else .refused .notSelected

/-! ## Reset, capture, and the cycle -/

/-- Every state element takes its reset value (R200, R20). -/
def State.resetElements (s : State) : State :=
  { s with st := .idle, slot := 0, tail := false, crc := crcNext .rst s.cfg.params 0 s.crc,
           pitch_q := 0, roll_q := 0 }

/-- Accept(p, r): both words are captured in the same edge and a frame starts (R110, R55). -/
def State.capture (s : State) (p r : Word) : State :=
  { s with pitch_q := p, roll_q := r, crc := crcNext .init s.cfg.params 0 s.crc,
           slot := 0, tail := false, st := .run }

/-- The environment moves on: the next cycle's port values are the next listed ones, or, past the list, free values. -/
def State.nextCycle (s : State) : State :=
  match s.stimulus with
  | p :: rest => { s with ports := p, stimulus := rest }
  | [] => { s with ports := Config.freePorts s.freeCycles, freeCycles := s.freeCycles + 1 }

/-! ## Placing a vector where the next cycle decodes it -/

/-- The sequencer in IDLE at its only legal position there. -/
def State.toIdle (s : State) : State := { s with st := .idle, slot := 0, tail := false }

/-- The sequencer in RUN: where it is if a frame is in flight, at the start marker otherwise. -/
def State.toRun (s : State) : State :=
  match s.st with
  | .run => s
  | .idle => { s with st := .run, slot := 0, tail := false }

/-- The sequencer in RUN at a slot's first wire byte, with the consumer ready and rst released. -/
def State.toSlot (s : State) (slot : Slot) : State :=
  { s with st := .run, slot := slot, tail := false,
           ports := { s.ports with rst := false, tx_ready := true } }

/-- The first slot whose ROM word is `w`; a word that is in no slot leaves the state alone. -/
def State.toControlWord (s : State) (w : BitVec 6) : State :=
  match (List.range 19).find? (fun k => decide (slotRom (BitVec.ofNat 5 k) = .ok w)) with
  | some k => s.toSlot (BitVec.ofNat 5 k)
  | none => s

/-- A state whose stuffing vector is `w`: a marker slot, a zero slot, or a pitch slot holding 0xFF (at or above every P_ESC). -/
def State.toStuffing (s : State) (w : BitVec 3) : State :=
  match decodeStf w with
  | .ok .rawemit => s.toSlot 0
  | .ok .pass => s.toSlot 12
  | .ok .head => { s.toSlot 4 with pitch_q := 0xFFFFFFFF }
  | .ok .tail => { s.toSlot 4 with pitch_q := 0xFFFFFFFF, tail := true }
  | .error _ => s

/-- A cycle whose checksum vector is `w`: a reset cycle, an accept, the first covered slot's transfer, or an idle cycle. -/
def State.toChecksumAction (s : State) (w : BitVec 3) : State :=
  match decodeCrcv w with
  | .ok .rst => { s with ports := { s.ports with rst := true } }
  | .ok .init => { s.toIdle with ports := { s.ports with rst := false, smp_valid := true } }
  | .ok .upd => s.toSlot 1
  | .ok .hold => { s.toIdle with ports := { s.ports with rst := false, smp_valid := false } }
  | .error _ => s

/-- `s` with its input ports, and the sequencer's position where the vector reads it, set so that the vector `w` of format `f` is the
one decoded in the next cycle (log entry 7). -/
def State.placeVector (s : State) (f : Format) (w : Nat) : State :=
  match f with
  | .ev =>
    let v : BitVec 4 := BitVec.ofNat 4 w
    let t := if v.getLsbD 2 then s.toRun else s.toIdle
    { t with ports := { s.ports with rst := v.getLsbD 3, smp_valid := v.getLsbD 1, tx_ready := v.getLsbD 0 } }
  | .ctl => s.toControlWord (BitVec.ofNat 6 w)
  | .stf => s.toStuffing (BitVec.ofNat 3 w)
  | .crcv => s.toChecksumAction (BitVec.ofNat 3 w)

end Sys2Proof.Machine
end

