-- ==== Sys2Proof/Machine/Checksum.lean ====
section
/-! DEFINITION. The checksum accumulator's actions (42_checksum.md R162 to R164, 70_reset_and_hazards.md R200). An action changes crc and
nothing else: the rest of the cycle belongs to the event it accompanies. -/

namespace Sys2Proof.Machine

/-- CRC_RST (R200, crcv = 1xx): crc <- P_CRC_INIT, whatever the prior state. -/
def execCrcRst (s : State) : Result :=
  runSelected s.selectCrc .rst (.next { s with crc := crcNext .rst s.cfg.params s.slotByte s.crc })

/-- CRC_INIT (R162, crcv = 010): crc <- P_CRC_INIT at an accept. -/
def execCrcInit (s : State) : Result :=
  runSelected s.selectCrc .init (.next { s with crc := crcNext .init s.cfg.params s.slotByte s.crc })

/-- CRC_UPD (R163, crcv = 001): crc <- crc_upd(crc, L(slot)), at the first transfer of a covered logical byte. -/
def execCrcUpd (s : State) : Result :=
  runSelected s.selectCrc .upd (.next { s with crc := crcNext .upd s.cfg.params s.slotByte s.crc })

/-- CRC_HOLD (R164, crcv = 000): crc keeps its value. -/
def execCrcHold (s : State) : Result :=
  runSelected s.selectCrc .hold (.next { s with crc := crcNext .hold s.cfg.params s.slotByte s.crc })

end Sys2Proof.Machine
end

