-- ==== Sys2Proof/Machine/Formatter.lean ====
section
/-! DEFINITION. The frame formatter's slot micro-operations (40_formatter.md R115 to R130): the logical byte each slot emits and its class. One
call is one cycle in the slot: an escaped byte takes two transfers, HEAD then TAIL. -/

namespace Sys2Proof.Machine

/-- EMIT.RAW SOM (R115, slot 0): P_SOM, raw, never checksummed. -/
def execEmitRawSom (s : State) : Result :=
  runSelected s.selectCtl .rawSom (s.emitSlot .raw s.cfg.params.som)

/-- EMIT.SC LEN (R116, slot 1): the constant P_LEN, never recomputed (R105). -/
def execEmitScLen (s : State) : Result :=
  runSelected s.selectCtl .scLen (s.emitSlot .sc s.cfg.params.len)

/-- EMIT.SC CMD (R117, slot 2): the constant P_CMD. -/
def execEmitScCmd (s : State) : Result :=
  runSelected s.selectCtl .scCmd (s.emitSlot .sc s.cfg.params.cmd)

/-- EMIT.SC FLAG (R118, slot 3): the constant P_FLAG. -/
def execEmitScFlag (s : State) : Result :=
  runSelected s.selectCtl .scFlag (s.emitSlot .sc s.cfg.params.flag)

/-- EMIT.SC PB0 (R119, slot 4): B_0(pitch_q). -/
def execEmitScPb0 (s : State) : Result :=
  runSelected s.selectCtl .scPb0 (s.emitSlot .sc (s.pitchByte 0))

/-- EMIT.SC PB1 (R120, slot 5): B_1(pitch_q). -/
def execEmitScPb1 (s : State) : Result :=
  runSelected s.selectCtl .scPb1 (s.emitSlot .sc (s.pitchByte 1))

/-- EMIT.SC PB2 (R121, slot 6): B_2(pitch_q). -/
def execEmitScPb2 (s : State) : Result :=
  runSelected s.selectCtl .scPb2 (s.emitSlot .sc (s.pitchByte 2))

/-- EMIT.SC PB3 (R122, slot 7): B_3(pitch_q). -/
def execEmitScPb3 (s : State) : Result :=
  runSelected s.selectCtl .scPb3 (s.emitSlot .sc (s.pitchByte 3))

/-- EMIT.SC RB0 (R123, slot 8): B_0(roll_q). -/
def execEmitScRb0 (s : State) : Result :=
  runSelected s.selectCtl .scRb0 (s.emitSlot .sc (s.rollByte 0))

/-- EMIT.SC RB1 (R124, slot 9): B_1(roll_q). -/
def execEmitScRb1 (s : State) : Result :=
  runSelected s.selectCtl .scRb1 (s.emitSlot .sc (s.rollByte 1))

/-- EMIT.SC RB2 (R125, slot 10): B_2(roll_q). -/
def execEmitScRb2 (s : State) : Result :=
  runSelected s.selectCtl .scRb2 (s.emitSlot .sc (s.rollByte 2))

/-- EMIT.SC RB3 (R126, slot 11): B_3(roll_q). -/
def execEmitScRb3 (s : State) : Result :=
  runSelected s.selectCtl .scRb3 (s.emitSlot .sc (s.rollByte 3))

/-- EMIT.SC ZERO (R127, slots 12 to 15): the byte 0x00; the slot counter alone tells the four apart. -/
def execEmitScZero (s : State) : Result :=
  runSelected s.selectCtl .scZero (s.emitSlot .sc 0x00)

/-- EMIT.S CK0 (R128, slot 16): C_0(crc), escaped, not checksummed. -/
def execEmitSCk0 (s : State) : Result :=
  runSelected s.selectCtl .sCk0 (s.emitSlot .s (s.checksumByte 0))

/-- EMIT.S CK1 (R129, slot 17): C_1(crc), escaped, not checksummed. -/
def execEmitSCk1 (s : State) : Result :=
  runSelected s.selectCtl .sCk1 (s.emitSlot .s (s.checksumByte 1))

/-- EMIT.RAW EOM (R130, slot 18): P_EOM, raw, never checksummed; the frame ends. -/
def execEmitRawEom (s : State) : Result :=
  runSelected s.selectCtl .rawEom (s.emitSlot .raw s.cfg.params.eom)

end Sys2Proof.Machine
end

