-- ==== Sys2Proof/Machine/Stuffing.lean ====
section
/-! DEFINITION. The byte-stuffing engine's operations (41_stuffing.md R142 to R145). Each acts in a cycle with st = RUN: at the transfer it
delivers its byte and moves the position; in a cycle without one it only presents its byte, and STALL holds it unchanged. The checksum
action of the same cycle is the accumulator's (Checksum.lean). -/

namespace Sys2Proof.Machine

/-- The engine's part of a cycle under the selected operation `op`. -/
def State.stuffCycle (s : State) (op : StfOp) : Result :=
  if s.isTransfer then .next (s.stuffTransfer op s.slotByte) else .next s

/-- RAWEMIT (R145, stf = 00x): deliver L(slot) unescaped, then ADVANCE. -/
def execRawemit (s : State) : Result := runSelected s.selectStf .rawemit (s.stuffCycle .rawemit)

/-- PASS (R142, stf = 100): deliver L(slot), tail <- 0, ADVANCE. -/
def execPass (s : State) : Result := runSelected s.selectStf .pass (s.stuffCycle .pass)

/-- HEAD (R143, stf = 101): deliver P_ESC, tail <- 1, slot unchanged. -/
def execHead (s : State) : Result := runSelected s.selectStf .head (s.stuffCycle .head)

/-- TAIL (R144, stf = 111): deliver L(slot) - P_ESC, tail <- 0, ADVANCE. -/
def execTail (s : State) : Result := runSelected s.selectStf .tail (s.stuffCycle .tail)

end Sys2Proof.Machine
end

