-- ==== Sys2Proof/Machine/Events.lean ====
section
/-! DEFINITION. The cycle events (40_formatter.md R109 to R114, 70_reset_and_hazards.md R200): what the whole block does in a cycle. -/

namespace Sys2Proof.Machine

/-- RESET (R200, ev = 1xxx): every state element takes its reset value, whatever the other inputs and the prior state. No byte is
delivered and no sample captured. -/
def execReset (s : State) : Result := runSelected s.selectEv .reset (.next s.resetElements)

/-- ACCEPT (R110, ev = 001x): capture the sample on the ports and start a frame. -/
def execAccept (s : State) : Result :=
  runSelected s.selectEv .accept (.next (s.capture s.ports.smp_pitch s.ports.smp_roll))

/-- IDLE_WAIT (R111, ev = 000x): no state element changes. -/
def execIdleWait (s : State) : Result := runSelected s.selectEv .idleWait (.next s)

/-- STALL (R112, ev = 01x0): the consumer is not ready; no state element changes. -/
def execStall (s : State) : Result := runSelected s.selectEv .stall (.next s)

/-- The micro-operation of the slot, run for one cycle (R113: "c = CTL(slot)"). -/
def runSlotOp (op : CtlOp) (s : State) : Result :=
  match op with
  | .rawSom => execEmitRawSom s
  | .scLen => execEmitScLen s
  | .scCmd => execEmitScCmd s
  | .scFlag => execEmitScFlag s
  | .scPb0 => execEmitScPb0 s
  | .scPb1 => execEmitScPb1 s
  | .scPb2 => execEmitScPb2 s
  | .scPb3 => execEmitScPb3 s
  | .scRb0 => execEmitScRb0 s
  | .scRb1 => execEmitScRb1 s
  | .scRb2 => execEmitScRb2 s
  | .scRb3 => execEmitScRb3 s
  | .scZero => execEmitScZero s
  | .sCk0 => execEmitSCk0 s
  | .sCk1 => execEmitSCk1 s
  | .rawEom => execEmitRawEom s

/-- XFER (R113, ev = 01x1): one wire byte of the slot's micro-operation is transferred and the position advances. -/
def execXfer (s : State) : Result :=
  runSelected s.selectEv .xfer
    (match s.selectCtl with
      | .error r => .refused r
      | .ok op => runSlotOp op s)

end Sys2Proof.Machine
end

