-- ==== Sys2Proof/Machine/Dispatch.lean ====
section
/-! DEFINITION. The dispatch: one arm per operation of spec/opcode_table.json, each one call of its meaning. -/

namespace Sys2Proof.Machine

def exec (i : Instr) (s : State) : Host.Outcome State Fault Refusal :=
  match i with
  | .reset => Sys2Proof.Machine.execReset s
  | .accept => Sys2Proof.Machine.execAccept s
  | .idleWait => Sys2Proof.Machine.execIdleWait s
  | .stall => Sys2Proof.Machine.execStall s
  | .xfer => Sys2Proof.Machine.execXfer s
  | .emitRawSom => Sys2Proof.Machine.execEmitRawSom s
  | .emitScLen => Sys2Proof.Machine.execEmitScLen s
  | .emitScCmd => Sys2Proof.Machine.execEmitScCmd s
  | .emitScFlag => Sys2Proof.Machine.execEmitScFlag s
  | .emitScPb0 => Sys2Proof.Machine.execEmitScPb0 s
  | .emitScPb1 => Sys2Proof.Machine.execEmitScPb1 s
  | .emitScPb2 => Sys2Proof.Machine.execEmitScPb2 s
  | .emitScPb3 => Sys2Proof.Machine.execEmitScPb3 s
  | .emitScRb0 => Sys2Proof.Machine.execEmitScRb0 s
  | .emitScRb1 => Sys2Proof.Machine.execEmitScRb1 s
  | .emitScRb2 => Sys2Proof.Machine.execEmitScRb2 s
  | .emitScRb3 => Sys2Proof.Machine.execEmitScRb3 s
  | .emitScZero => Sys2Proof.Machine.execEmitScZero s
  | .emitSCk0 => Sys2Proof.Machine.execEmitSCk0 s
  | .emitSCk1 => Sys2Proof.Machine.execEmitSCk1 s
  | .emitRawEom => Sys2Proof.Machine.execEmitRawEom s
  | .rawemit => Sys2Proof.Machine.execRawemit s
  | .pass => Sys2Proof.Machine.execPass s
  | .head => Sys2Proof.Machine.execHead s
  | .tail => Sys2Proof.Machine.execTail s
  | .crcRst => Sys2Proof.Machine.execCrcRst s
  | .crcInit => Sys2Proof.Machine.execCrcInit s
  | .crcUpd => Sys2Proof.Machine.execCrcUpd s
  | .crcHold => Sys2Proof.Machine.execCrcHold s

end Sys2Proof.Machine
end

