-- ==== Sys2Proof/Machine/Step.lean ====
section
/-! DEFINITION. One step is one clock cycle (40_formatter.md R109): the cycle event is decoded from the state and the input ports, its
operation is performed at the rising edge, and the environment moves on to the next cycle's port values. -/

namespace Sys2Proof.Machine

/-- Step(s, in) of R109. -/
def step (s : State) : Host.Outcome State Fault Refusal :=
  match s.selectEv with
  | .error r => .refused r
  | .ok op =>
    match exec op.toInstr s with
    | .next t => .next t.nextCycle
    | .fault f => .fault f
    | .refused r => .refused r

/-- `s` with the vector of a table word placed where the next step decodes it: the input ports and the sequencer's position (log entry 7). DESIGN CHOICE
(log entry 7): of a word that decodes in no format (R78), the low 4 bits are placed as an event vector, so the next step runs an event; a word of 256 or
more, which `decodeTableWord` does not read either, is placed by its low 8 bits in the first format in which they decode. -/
def State.withFetchWord (s : State) (nbits w : Nat) : State := s.placeVector (tableFormat nbits w) w

end Sys2Proof.Machine
end

