-- ==== Sys2Proof/Machine/Frame.lean ====
section
/-! DEFINITION. The transaction level: the frame as a function of the parameters and the sample (40_formatter.md R107), the stuffing map and the
reference un-stuffing function (41_stuffing.md R141, R147), the final checksum (42_checksum.md R165) and the bitwise CRC step (R166).
Nothing of the cycle-level machine calls this file: statements hold the two levels against each other. -/

namespace Sys2Proof.Machine

/-- stuff(v) (R141). -/
def stuff (p : Params) (v : Byte) : List Byte :=
  if p.esc ≤ v then [p.esc, v - p.esc] else [v]

/-- stuff over a list of logical bytes, in order (R107). -/
def stuffAll (p : Params) (vs : List Byte) : List Byte := vs.flatMap (stuff p)

/-- Unstuff(I) (R147), for verification only. A head with no tail after it has no value. -/
def unstuff (p : Params) : List Byte → Option (List Byte)
  | [] => some []
  | [b] => if b = p.esc then none else some [b]
  | b :: t :: rest =>
    if b = p.esc then (unstuff p rest).map ((t + p.esc) :: ·)
    else (unstuff p (t :: rest)).map (b :: ·)

/-- Logical[1..15]: the bytes the checksum covers, in slot order (R107, R160). -/
def covered (p : Params) (pitch roll : Word) : List Byte :=
  [p.len, p.cmd, p.flag,
   floatByte p.floatOrder 0 pitch, floatByte p.floatOrder 1 pitch,
   floatByte p.floatOrder 2 pitch, floatByte p.floatOrder 3 pitch,
   floatByte p.floatOrder 0 roll, floatByte p.floatOrder 1 roll,
   floatByte p.floatOrder 2 roll, floatByte p.floatOrder 3 roll,
   0x00, 0x00, 0x00, 0x00]

/-- fold crc_upd (00_scope.md §5). -/
def crcFold (c : Half) (bs : List Byte) : Half := bs.foldl crcUpd c

/-- K, the final checksum of the sample (R165). -/
def checksum (p : Params) (pitch roll : Word) : Half := crcFold p.crcInit (covered p pitch roll)

/-- Logical[1..17]: the bytes that are stuffed (R140). -/
def interiorBytes (p : Params) (pitch roll : Word) : List Byte :=
  covered p pitch roll ++
    [crcByte p.crcOrder 0 (checksum p pitch roll), crcByte p.crcOrder 1 (checksum p pitch roll)]

/-- Logical(p, r): the 19 logical bytes (R100, R107). -/
def logical (p : Params) (pitch roll : Word) : List Byte :=
  p.som :: (interiorBytes p pitch roll ++ [p.eom])

/-- Frame(p, r): the wire bytes (R107). -/
def frame (p : Params) (pitch roll : Word) : List Byte :=
  p.som :: (stuffAll p (interiorBytes p pitch roll) ++ [p.eom])

/-- The frame as a consumer sees it: tx_sof marks its first byte only, tx_last its last byte only (R132, R26). -/
def wireFrame (p : Params) (pitch roll : Word) : List WireByte :=
  { data := p.som, sof := true, last := false } ::
    ((stuffAll p (interiorBytes p pitch roll)).map (fun b => { data := b, sof := false, last := false }) ++
      [{ data := p.eom, sof := false, last := true }])

/-- One bit of the MSB-first CRC step with polynomial 0x1021 (R166). -/
def crcShift (c : Half) : Half := if c.getLsbD 15 then (c <<< 1) ^^^ 0x1021 else c <<< 1

/-- crc_bit(c, b) (R166). -/
def crcBit (c : Half) (b : Byte) : Half :=
  crcShift (crcShift (crcShift (crcShift (crcShift (crcShift (crcShift (crcShift
    (c ^^^ (b.setWidth 16 <<< 8)))))))))

end Sys2Proof.Machine
end

