-- ==== Sys2Proof/Safety.lean ====
section
/-! DEFINITION. What counts as a safe state and a safe run, in the words the statements use. -/

namespace Sys2Proof.Machine

/-- The run of `n` cycles from `s` ends in `t`: no cycle of it is refused. -/
def Runs (n : Nat) (s t : State) : Prop := Sys2Proof.core.run n s = .next t

/-- The reachable-state invariant, R23 word for word: (a) st = IDLE implies slot = 0 and tail = 0; (b) slot <= 18; (c) tail = 1 implies
that the slot is stuffed and L(slot) >= P_ESC. -/
structure State.InPosition (s : State) : Prop where
  idle_at_start : s.st = .idle → s.slot = 0 ∧ s.tail = false
  slot_le : s.slot.toNat ≤ 18
  tail_escaped : s.tail = true →
    ∃ c, slotRom s.slot = .ok c ∧ ctlStuffEn c = true ∧ s.esc ≤ s.logicalByte c

/-- How many covered bytes the accumulator has absorbed at the sequencer's position (R160, R163): those of the slots before this one, and
this slot's own once its head is out. -/
def State.absorbed (s : State) : Nat :=
  min 15 (s.slot.toNat - 1 + (if s.tail then 1 else 0))

/-- While a frame is in flight, crc is the fold over the covered bytes absorbed so far (R165). -/
def State.ChecksumInStep (s : State) : Prop :=
  s.st = .run →
    s.crc = crcFold s.cfg.params.crcInit ((covered s.cfg.params s.pitch_q s.roll_q).take s.absorbed)

/-- A state a run may be in: the position is legal and the checksum is in step with it. -/
def State.Safe (s : State) : Prop := s.InPosition ∧ s.ChecksumInStep

/-- How many of the cycles have the consumer ready (R133: the transfers of a frame in flight). -/
def readyCycles (ins : List Ports) : Nat := ins.countP Ports.tx_ready

/-- A cycle in which the frame in flight may transfer a byte: RUN, rst = 0, tx_ready = 1 (R25). -/
def Transfers (s : State) : Prop :=
  s.st = .run ∧ s.ports.rst = false ∧ s.ports.tx_ready = true

/-- A cycle of a frame in flight in which the consumer is not ready (R112). -/
def Stalls (s : State) : Prop :=
  s.st = .run ∧ s.ports.rst = false ∧ s.ports.tx_ready = false

end Sys2Proof.Machine
end

