-- ==== Sys2Proof/Certificates/Slice0/Obligations.lean ====
section
/-! DEFINITION. The statements for the provers. Each docstring names the rule of spec/ it formalises. A next state is written as the state before
with the changed fields named, so every statement of a result is also its instruction's frame: every field it does not name is unchanged. -/

namespace Sys2Proof.Claims

open Sys2Proof.Machine

/-- The wire stream after delivering `b` in this cycle (R25, R26). -/
def emitted (s : State) (b : Byte) : List WireByte :=
  s.wire ++ [{ data := b, sof := decide (s.slot = 0), last := decide (s.slot = 18) }]

/-- One transfer of an escaped, checksummed logical byte `v` whose slot is followed by `next`: the tail of a pair, its head, or the byte itself
(R113, R141, R163). -/
def scNext (v : Byte) (next : Slot) (s : State) : State :=
  if s.tail = true then { s with wire := emitted s (v - s.esc), tail := false, slot := next }
  else if s.esc ≤ v then { s with wire := emitted s s.esc, tail := true, crc := crcUpd s.crc v }
  else { s with wire := emitted s v, slot := next, crc := crcUpd s.crc v }

/-- One transfer of an escaped logical byte that is not checksummed (R128, R129). -/
def sNext (v : Byte) (next : Slot) (s : State) : State :=
  if s.tail = true then { s with wire := emitted s (v - s.esc), tail := false, slot := next }
  else if s.esc ≤ v then { s with wire := emitted s s.esc, tail := true }
  else { s with wire := emitted s v, slot := next }

/-- Eight bits of a word from bit `le` up when the order is LE, from bit `be` up when it is BE. -/
def orderedByte {n : Nat} (order : ByteOrder) (le be : Nat) (w : BitVec n) : Byte :=
  match order with
  | .le => w.extractLsb' le 8
  | .be => w.extractLsb' be 8

/-- The event vector of a cycle, ev[3:0] = rst, st, smp_valid, tx_ready (R70). -/
def eventVector (s : State) : BitVec 4 :=
  BitVec.ofBool s.ports.rst ++ BitVec.ofBool s.st.isRun ++
    BitVec.ofBool s.ports.smp_valid ++ BitVec.ofBool s.ports.tx_ready

end Sys2Proof.Claims

open Sys2Proof Sys2Proof.Machine Sys2Proof.Claims

/-! ## Encodings -/

/-- A word of each family, written from the tables of R70, R74, R76 and R77, decodes to its operation. -/
def Obligations.SpecWordsDecode : Prop :=
  decode .ev 0b1000 = .ok .reset ∧ decode .ev 0b0011 = .ok .accept ∧
  decode .ev 0b0111 = .ok .xfer ∧ decode .ctl 0b000000 = .ok .emitRawSom ∧
  decode .ctl 0b110110 = .ok .emitScPb2 ∧ decode .ctl 0b101101 = .ok .emitSCk0 ∧
  decode .stf 0b101 = .ok .head ∧ decode .crcv 0b001 = .ok .crcUpd

/-- Decode and encode agree: every operation, with its don't-care bits filled in any way, decodes to itself. -/
def Obligations.DecodeOfEncodeIsTheOperation : Prop :=
  ∀ (i : Instr) (fill : Byte), decode i.encoding.format (encode i fill) = .ok i

/-- The decoder accepts exactly the table: a vector decodes to an operation if and only if it fits the format's width and its masked bits are the
row's match value (R70, R74, R76, R77). -/
def Obligations.DecoderAcceptsExactlyTheTable : Prop :=
  ∀ (f : Format) (w : Byte) (i : Instr),
    decode f w = .ok i ↔
      (i.encoding.format = f ∧ w.toNat < 2 ^ f.width ∧ w &&& i.encoding.mask = i.encoding.value)

/-- R78: the reserved encodings are the slot numbers 19..31, the control words in no slot of the ROM, STF 01x and 110, and CRC 011; each is rejected
by its own name, and nothing else that fits its format is. -/
def Obligations.ReservedEncodingsAreRejected : Prop :=
  (∀ k : Slot, slotRom k = .error .reservedSlot ↔ 19 ≤ k.toNat) ∧
  ∀ (f : Format) (w : Byte),
    (decode f w = .error .tooWide ↔ 2 ^ f.width ≤ w.toNat) ∧
    (decode f w = .error .reservedControlWord ↔
      f = .ctl ∧ w.toNat < 64 ∧ ∀ k : Slot, slotRom k ≠ .ok (w.setWidth 6)) ∧
    (decode f w = .error .reservedStuffing ↔ f = .stf ∧ (w = 0b010 ∨ w = 0b011 ∨ w = 0b110)) ∧
    (decode f w = .error .reservedChecksumAction ↔ f = .crcv ∧ w = 0b011) ∧
    decode f w ≠ .error .reservedSlot

/-- A step runs the decoded operation (R70, R109): in every cycle that has a meaning, the event vector decodes to one operation and the step is that
operation followed by the next cycle's port values. -/
def Obligations.StepRunsTheDecodedEvent : Prop :=
  ∀ s : State, s.ports.rst = true ∨ s.InPosition →
    ∃ i t, decode .ev ((eventVector s).setWidth 8) = .ok i ∧ exec i s = .next t ∧
      step s = .next t.nextCycle

/-- The model's own placing of a table word (log entry 7): the word's operation is selected in the very next cycle and completes there. The step is
that operation when it is an event or a slot micro-operation; when it is a stuffing operation the step is it but for crc, and when it is a checksum
action its crc is the step's. -/
def Obligations.PlacedTableWordRunsNext : Prop :=
  ∀ (s : State) (n w : Nat) (i : Instr), s.InPosition → decodeTableWord n w = some i →
    ∃ t u, exec i (s.withFetchWord n w) = .next t ∧ step (s.withFetchWord n w) = .next u.nextCycle ∧
      (match i.encoding.format with
        | .ev => u = t
        | .ctl => u = t
        | .stf => u = { t with crc := u.crc }
        | .crcv => u.crc = t.crc)

/-! ## Cycle events -/

/-- RESET (R200): every state element takes its reset value, whatever the other inputs and the prior state; the cycle is neither an accept nor a
transfer; after the edge the block is in IDLE with smp_ready = 1 and tx_valid = 0. -/
def Obligations.ResetTakesEveryResetValue : Prop :=
  ∀ s : State, s.ports.rst = true →
    s.isAccept = false ∧ s.isTransfer = false ∧
    ∃ t, exec .reset s = .next t ∧
      t = { s with st := .idle, slot := 0, tail := false, crc := s.cfg.params.crcInit,
                   pitch_q := 0x00000000, roll_q := 0x00000000 } ∧
      t.smp_ready = true ∧ t.tx_valid = false

/-- ACCEPT (R110): both words are captured in one edge, the checksum is initialised and a frame starts at slot 0; the cycle shows the IDLE outputs. -/
def Obligations.AcceptCapturesTheSample : Prop :=
  ∀ s : State, s.InPosition → s.st = .idle → s.ports.rst = false → s.ports.smp_valid = true →
    exec .accept s = .next
      { s with pitch_q := s.ports.smp_pitch, roll_q := s.ports.smp_roll,
               crc := s.cfg.params.crcInit, slot := 0, tail := false, st := .run } ∧
    s.smp_ready = true ∧ s.tx_valid = false

/-- IDLE_WAIT (R111): no state element changes, and the outputs are the IDLE outputs. -/
def Obligations.IdleWaitChangesNothing : Prop :=
  ∀ s : State, s.InPosition → s.st = .idle → s.ports.rst = false → s.ports.smp_valid = false →
    exec .idleWait s = .next s ∧
    s.outputs = some
      { smp_ready := true, busy := false, tx_valid := false,
        tx_data := 0x00, tx_sof := false, tx_last := false }

/-- STALL (R112): no state element changes. -/
def Obligations.StallChangesNothing : Prop :=
  ∀ s : State, s.InPosition → Stalls s → exec .stall s = .next s

/-- XFER and ADVANCE (R113, R114), the pseudocode: Emit(tx_data); crc is updated when cls[0] = 1 and tail = 0; a head sets tail; any other transfer
clears tail and advances, from slot 18 to IDLE. -/
def Obligations.XferTransfersOneByte : Prop :=
  ∀ (s : State) (c : BitVec 6) (d : Byte), s.InPosition → Transfers s →
    slotRom s.slot = .ok c → s.tx_data = some d →
    let v := s.logicalByte c
    let crc' := if ctlCrcEn c = true ∧ s.tail = false then crcUpd s.crc v else s.crc
    exec .xfer s = .next
      (if ctlStuffEn c = true ∧ s.tail = false ∧ s.esc ≤ v then
        { s with wire := emitted s d, crc := crc', tail := true }
      else if s.slot = 18 then
        { s with wire := emitted s d, crc := crc', tail := false, st := .idle, slot := 0 }
      else
        { s with wire := emitted s d, crc := crc', tail := false, slot := s.slot + 1 })

/-! ## Slot micro-operations, each in a transfer cycle of its slot -/

/-- EMIT.RAW SOM and EMIT.RAW EOM (R115, R130): the marker is delivered raw and crc is held; after EOM the block is in IDLE. -/
def Obligations.MarkerSlotsEmitRawMarkers : Prop :=
  ∀ s : State, s.InPosition → Transfers s →
    (s.slot = 0 → exec .emitRawSom s =
      .next { s with wire := s.wire ++ [{ data := s.cfg.params.som, sof := true, last := false }], slot := 1 }) ∧
    (s.slot = 18 → exec .emitRawEom s =
      .next { s with wire := s.wire ++ [{ data := s.cfg.params.eom, sof := false, last := true }],
                     st := .idle, slot := 0 })

/-- EMIT.SC LEN, CMD and FLAG (R116 to R118): the header constants, stuffed and checksummed. -/
def Obligations.HeaderSlotsEmitConstants : Prop :=
  ∀ s : State, s.InPosition → Transfers s →
    (s.slot = 1 → exec .emitScLen s = .next (scNext s.cfg.params.len 2 s)) ∧
    (s.slot = 2 → exec .emitScCmd s = .next (scNext s.cfg.params.cmd 3 s)) ∧
    (s.slot = 3 → exec .emitScFlag s = .next (scNext s.cfg.params.flag 4 s))

/-- EMIT.SC PB0 to PB3 (R119 to R122): the pitch bytes, in the order P_FLOAT_ORDER gives. -/
def Obligations.PitchSlotsEmitPitchBytes : Prop :=
  ∀ s : State, s.InPosition → Transfers s →
    (s.slot = 4 → exec .emitScPb0 s =
      .next (scNext (orderedByte s.cfg.params.floatOrder 0 24 s.pitch_q) 5 s)) ∧
    (s.slot = 5 → exec .emitScPb1 s =
      .next (scNext (orderedByte s.cfg.params.floatOrder 8 16 s.pitch_q) 6 s)) ∧
    (s.slot = 6 → exec .emitScPb2 s =
      .next (scNext (orderedByte s.cfg.params.floatOrder 16 8 s.pitch_q) 7 s)) ∧
    (s.slot = 7 → exec .emitScPb3 s =
      .next (scNext (orderedByte s.cfg.params.floatOrder 24 0 s.pitch_q) 8 s))

/-- EMIT.SC RB0 to RB3 (R123 to R126): the roll bytes, in the order P_FLOAT_ORDER gives. -/
def Obligations.RollSlotsEmitRollBytes : Prop :=
  ∀ s : State, s.InPosition → Transfers s →
    (s.slot = 8 → exec .emitScRb0 s =
      .next (scNext (orderedByte s.cfg.params.floatOrder 0 24 s.roll_q) 9 s)) ∧
    (s.slot = 9 → exec .emitScRb1 s =
      .next (scNext (orderedByte s.cfg.params.floatOrder 8 16 s.roll_q) 10 s)) ∧
    (s.slot = 10 → exec .emitScRb2 s =
      .next (scNext (orderedByte s.cfg.params.floatOrder 16 8 s.roll_q) 11 s)) ∧
    (s.slot = 11 → exec .emitScRb3 s =
      .next (scNext (orderedByte s.cfg.params.floatOrder 24 0 s.roll_q) 12 s))

/-- EMIT.SC ZERO (R127, R103): in slots 12 to 15 the byte 0x00 passes unescaped, is checksummed, and the slot counter goes up by one. -/
def Obligations.ZeroSlotsEmitZero : Prop :=
  ∀ s : State, s.InPosition → Transfers s → 12 ≤ s.slot.toNat → s.slot.toNat ≤ 15 →
    exec .emitScZero s = .next
      { s with wire := emitted s 0x00, crc := crcUpd s.crc 0x00, slot := s.slot + 1 }

/-- EMIT.S CK0 and CK1 (R128, R129): the checksum bytes, stuffed and not checksummed. -/
def Obligations.ChecksumSlotsEmitChecksum : Prop :=
  ∀ s : State, s.InPosition → Transfers s →
    (s.slot = 16 → exec .emitSCk0 s =
      .next (sNext (orderedByte s.cfg.params.crcOrder 0 8 s.crc) 17 s)) ∧
    (s.slot = 17 → exec .emitSCk1 s =
      .next (sNext (orderedByte s.cfg.params.crcOrder 8 0 s.crc) 18 s))

/-- In a cycle that is no transfer, the slot's micro-operation and the stuffing operation hold everything unchanged. With rst = 0 that is R112 and
41_stuffing.md section 2 (a stall holds them). With rst = 1 it is the MODEL'S CHOICE (log entry 5, DEDUCED): R201 says only that no byte is delivered in
a reset cycle, and the cycle's own effect is RESET's. -/
def Obligations.SlotOperationsHoldWithoutTransfer : Prop :=
  ∀ (s : State) (c : BitVec 6) (op : CtlOp) (a : StfOp), s.InPosition → s.st = .run →
    s.ports.rst = true ∨ s.ports.tx_ready = false →
    slotRom s.slot = .ok c → decodeCtl c = .ok op →
    decodeStfBits (ctlStuffEn c) s.tail (decide (s.esc ≤ s.logicalByte c)) = .ok a →
    exec op.toInstr s = .next s ∧ exec a.toInstr s = .next s

/-! ## Byte-stuffing engine -/

/-- PASS (R142): a stuffed byte below P_ESC is presented and delivered as it is, and the slot advances; the checksum action is CRC_UPD if cls[0] = 1,
else CRC_HOLD. That `exec .pass` itself leaves crc alone, the accompanying action changing it, is the MODEL'S CHOICE (log entry 14, DEDUCED). -/
def Obligations.PassDeliversTheByte : Prop :=
  ∀ (s : State) (c : BitVec 6), s.InPosition → Transfers s → slotRom s.slot = .ok c →
    ctlStuffEn c = true → s.tail = false → s.logicalByte c < s.esc →
    exec .pass s = .next { s with wire := emitted s (s.logicalByte c), slot := s.slot + 1 } ∧
    s.tx_data = some (s.logicalByte c) ∧
    s.selectCrc = .ok (if ctlCrcEn c then .upd else .hold)

/-- HEAD (R143): a stuffed byte at or above P_ESC presents and delivers P_ESC, sets tail and leaves the slot; the checksum action is CRC_UPD if
cls[0] = 1, else CRC_HOLD. That `exec .head` itself leaves crc alone, the accompanying action changing it, is the MODEL'S CHOICE (log entry 14,
DEDUCED). -/
def Obligations.HeadDeliversEscape : Prop :=
  ∀ (s : State) (c : BitVec 6), s.InPosition → Transfers s → slotRom s.slot = .ok c →
    ctlStuffEn c = true → s.tail = false → s.esc ≤ s.logicalByte c →
    exec .head s = .next { s with wire := emitted s s.esc, tail := true } ∧
    s.tx_data = some s.esc ∧
    s.selectCrc = .ok (if ctlCrcEn c then .upd else .hold)

/-- TAIL (R144): after a head, v - P_ESC is presented and delivered, tail is cleared and the slot advances; the checksum action is CRC_HOLD; the
tail byte is below P_ESC. -/
def Obligations.TailDeliversDifference : Prop :=
  ∀ (s : State) (c : BitVec 6), s.InPosition → Transfers s → slotRom s.slot = .ok c →
    s.tail = true →
    exec .tail s = .next
      { s with wire := emitted s (s.logicalByte c - s.esc), tail := false, slot := s.slot + 1 } ∧
    s.tx_data = some (s.logicalByte c - s.esc) ∧ s.selectCrc = .ok .hold ∧
    s.logicalByte c - s.esc < s.esc

/-- RAWEMIT (R145): in slots 0 and 18 the marker is presented and delivered unescaped and the slot advances (from 18 to IDLE); the checksum action is
CRC_HOLD. -/
def Obligations.RawemitDeliversTheMarker : Prop :=
  ∀ s : State, s.InPosition → Transfers s →
    (s.slot = 0 →
      exec .rawemit s = .next { s with wire := emitted s s.cfg.params.som, slot := 1 } ∧
      s.tx_data = some s.cfg.params.som ∧ s.selectCrc = .ok .hold) ∧
    (s.slot = 18 →
      exec .rawemit s = .next { s with wire := emitted s s.cfg.params.eom, st := .idle, slot := 0 } ∧
      s.tx_data = some s.cfg.params.eom ∧ s.selectCrc = .ok .hold)

/-! ## Checksum accumulator -/

/-- CRC_RST (R200, R77) and CRC_INIT (R162, R77): crc takes P_CRC_INIT in a reset cycle, whatever the prior state, and at an accept. That the two
actions change nothing but crc, the rest of the cycle being the event's, is the MODEL'S CHOICE (log entry 14, DEDUCED). -/
def Obligations.ChecksumIsInitialised : Prop :=
  ∀ s : State,
    (s.ports.rst = true → exec .crcRst s = .next { s with crc := s.cfg.params.crcInit }) ∧
    (s.InPosition → s.ports.rst = false → s.st = .idle → s.ports.smp_valid = true →
      exec .crcInit s = .next { s with crc := s.cfg.params.crcInit })

/-- CRC_UPD (R163): at the transfer of the first wire byte of a logical byte of slots 1 to 15, crc absorbs the logical byte; in these cycles, and in no
others, CRC_UPD is the selected action. That `exec .crcUpd` changes nothing but crc, the delivered byte and the position being the event's (R113), is
the MODEL'S CHOICE (log entry 14, DEDUCED). -/
def Obligations.ChecksumAbsorbsCoveredBytesOnce : Prop :=
  ∀ (s : State) (c : BitVec 6), s.InPosition → slotRom s.slot = .ok c →
    (Transfers s → s.tail = false → 1 ≤ s.slot.toNat → s.slot.toNat ≤ 15 →
      exec .crcUpd s = .next { s with crc := crcUpd s.crc (s.logicalByte c) }) ∧
    (s.selectCrc = .ok .upd ↔
      Transfers s ∧ s.tail = false ∧ 1 ≤ s.slot.toNat ∧ s.slot.toNat ≤ 15)

/-- CRC_HOLD (R164): in every cycle that is neither a reset, an accept nor a CRC_UPD, crc keeps its value. That `exec .crcHold` leaves every other
field as it was too, in a transfer cycle as well, is the MODEL'S CHOICE (log entry 14, DEDUCED). -/
def Obligations.ChecksumHoldsOtherwise : Prop :=
  ∀ s : State, s.InPosition → s.ports.rst = false →
    ¬ (s.st = .idle ∧ s.ports.smp_valid = true) →
    ¬ (Transfers s ∧ s.tail = false ∧ 1 ≤ s.slot.toNat ∧ s.slot.toNat ≤ 15) →
    exec .crcHold s = .next s

/-- R161: the two forms of the byte update are the same function; the second gives the result byte by byte. -/
def Obligations.ByteUpdateFormsAgree : Prop :=
  ∀ (c : Half) (b : Byte),
    let n : Byte := c.extractLsb' 8 8 ^^^ b
    let t : Byte := n ^^^ (n >>> 4)
    (crcUpd c b).extractLsb' 8 8 = c.extractLsb' 0 8 ^^^ (t <<< 4) ^^^ (t >>> 3) ∧
    (crcUpd c b).extractLsb' 0 8 = t ^^^ (t <<< 5)

/-- R166: the byte update is the bitwise most-significant-bit-first CRC step with polynomial 0x1021, for every accumulator value and byte; with it the
folds over the ASCII string "123456789" that R166 gives. -/
def Obligations.ByteUpdateIsBitwiseCrc : Prop :=
  (∀ (c : Half) (b : Byte), crcUpd c b = crcBit c b) ∧
  (let digits : List Byte := [0x31, 0x32, 0x33, 0x34, 0x35, 0x36, 0x37, 0x38, 0x39]
   crcFold 0xFFFF digits = 0x29B1 ∧ crcFold 0x0000 digits = 0x31C3 ∧ crcFold 0xE295 digits = 0x38B8)

/-- R167: the byte update is linear over GF(2), crc_upd(0, 0) = 0, two initial values differ after a list as their difference does after as many
zero bytes, and so the checksum under 0xE2D5 is the one under 0xE295 XOR 0x2BBF, for every sample. -/
def Obligations.ChecksumIsLinear : Prop :=
  (∀ (c₁ c₂ : Half) (b₁ b₂ : Byte),
    crcUpd (c₁ ^^^ c₂) (b₁ ^^^ b₂) = crcUpd c₁ b₁ ^^^ crcUpd c₂ b₂) ∧
  crcUpd 0 0 = 0 ∧
  (∀ (i₁ i₂ : Half) (bs : List Byte),
    crcFold i₁ bs ^^^ crcFold i₂ bs = crcFold (i₁ ^^^ i₂) (List.replicate bs.length 0x00)) ∧
  (∀ (p : Params) (pitch roll : Word),
    checksum { p with crcInit := 0xE2D5 } pitch roll =
      checksum { p with crcInit := 0xE295 } pitch roll ^^^ 0x2BBF)

/-! ## Outputs -/

/-- R26: the outputs are this function of the state. -/
def Obligations.OutputsAreMooreOutputs : Prop :=
  ∀ s : State, s.InPosition →
    (s.st = .idle → s.outputs = some
      { smp_ready := true, busy := false, tx_valid := false,
        tx_data := 0x00, tx_sof := false, tx_last := false }) ∧
    (∀ c, s.st = .run → slotRom s.slot = .ok c → s.outputs = some
      { smp_ready := false, busy := true, tx_valid := true,
        tx_data :=
          if ctlStuffEn c = false then s.logicalByte c
          else if s.tail = false then
            (if s.esc ≤ s.logicalByte c then s.esc else s.logicalByte c)
          else s.logicalByte c - s.esc,
        tx_sof := decide (s.slot = 0), tx_last := decide (s.slot = 18) })

/-- R27: in a cycle with rst = 0, st = RUN and tx_ready = 0 no state element changes, so the outputs are the same in the next cycle. -/
def Obligations.StalledOutputsAreStable : Prop :=
  ∀ s : State, s.InPosition → Stalls s →
    ∃ t, step s = .next t ∧ t.outputs = s.outputs ∧ t.tx_valid = true ∧
      t.st = s.st ∧ t.slot = s.slot ∧ t.tail = s.tail ∧ t.crc = s.crc ∧
      t.pitch_q = s.pitch_q ∧ t.roll_q = s.roll_q ∧ t.wire = s.wire

/-- R25: a transfer delivers exactly one wire byte, the one on tx_data, with the cycle's tx_sof and tx_last; any other cycle delivers nothing. -/
def Obligations.OnlyTransfersDeliver : Prop :=
  ∀ s t : State, step s = .next t →
    (s.isTransfer = false → t.wire = s.wire) ∧
    (s.isTransfer = true → ∃ o, s.outputs = some o ∧
      t.wire = s.wire ++ [{ data := o.tx_data, sof := o.tx_sof, last := o.tx_last }])

/-! ## Whole-machine rules -/

/-- What no operation changes (R6: no state, port or register can change a parameter; R20's written-by column: only ACCEPT and RESET write the
sample registers), for every operation that completes. -/
def Obligations.OperationsKeepParametersAndSample : Prop :=
  ∀ (i : Instr) (s t : State), exec i s = .next t →
    t.cfg = s.cfg ∧ t.ports = s.ports ∧ t.stimulus = s.stimulus ∧ t.freeCycles = s.freeCycles ∧
    (i ≠ .accept → i ≠ .reset → t.pitch_q = s.pitch_q ∧ t.roll_q = s.roll_q)

/-- No operation delivers more than one byte, and none delivers one outside a transfer cycle (R25, R201). -/
def Obligations.OperationsDeliverAtMostOneByte : Prop :=
  ∀ (i : Instr) (s t : State), exec i s = .next t →
    t.wire = s.wire ∨ (s.isTransfer = true ∧ ∃ b, t.wire = s.wire ++ [b])

/-- One transfer cycle seen through all four formats (R109, R113): XFER is the slot's micro-operation, whose effect is the stuffing operation's with
the checksum action's crc. -/
def Obligations.TransferIsStuffingAndChecksum : Prop :=
  ∀ (s : State) (c : BitVec 6), s.InPosition → Transfers s → slotRom s.slot = .ok c →
    ∃ op a k x y,
      decodeCtl c = .ok op ∧
      decodeStfBits (ctlStuffEn c) s.tail (decide (s.esc ≤ s.logicalByte c)) = .ok a ∧
      s.selectCrc = .ok k ∧ exec a.toInstr s = .next x ∧ exec k.toInstr s = .next y ∧
      exec op.toInstr s = .next { x with crc := y.crc } ∧
      exec .xfer s = exec op.toInstr s

/-- Every cycle completes exactly where the spec gives it a meaning (R180: total on every reachable state and every input; R78, R181: a state outside
R23 is a refusal; R200: RESET acts whatever the prior state). -/
def Obligations.StepCompletesExactlyInsideInvariant : Prop :=
  ∀ s : State,
    ((∃ t, step s = .next t) ↔ (s.ports.rst = true ∨ s.InPosition)) ∧
    ((∃ r, step s = .refused r) ↔ ¬ (s.ports.rst = true ∨ s.InPosition))

/-- Every step keeps the reachable-state invariant of R23, from every state that meets it. -/
def Obligations.StepKeepsPosition : Prop :=
  ∀ s t : State, s.InPosition → step s = .next t → t.InPosition

/-- R23: in every state reachable from a reset edge, however long the run and whatever the inputs, the invariant holds. -/
def Obligations.ReachableStatesAreInPosition : Prop :=
  ∀ (n : Nat) (s t : State), s.ports.rst = true → Runs (n + 1) s t → t.InPosition

/-- The machine right after reset meets the invariants, and so does every state after a reset edge, whatever was before (R23, R200). -/
def Obligations.ResetIsSafe : Prop :=
  State.reset.Safe ∧ ∀ s t : State, s.ports.rst = true → step s = .next t → t.Safe

/-- R165, every position: while a frame is in flight, crc is the fold of crc_upd over the covered bytes absorbed so far, and every step keeps it so. -/
def Obligations.StepKeepsChecksumInStep : Prop :=
  ∀ s t : State, s.Safe → step s = .next t → t.Safe

/-- R165: when slot 16 is presented, and through slots 16, 17 and 18, crc holds K; every step from there without a reset leaves it K, the one that
enters IDLE too. -/
def Obligations.ChecksumIsFinalFromSlotSixteen : Prop :=
  ∀ s : State, s.Safe → s.st = .run → 16 ≤ s.slot.toNat →
    s.crc = checksum s.cfg.params s.pitch_q s.roll_q ∧
    (∀ t, s.ports.rst = false → step s = .next t →
      t.crc = checksum s.cfg.params s.pitch_q s.roll_q)

/-- Where the operations stop, by the model's own choice (log entries 5 and 6): outside R23 without a reset every operation is refused; in a legal
position an operation that its format does not select in this cycle is refused as not selected. -/
def Obligations.UnselectedOperationsAreRefused : Prop :=
  ∀ s : State,
    (¬ (s.ports.rst = true ∨ s.InPosition) → ∀ i, ∃ r, exec i s = .refused r) ∧
    (s.InPosition →
      (∀ op : EvOp, decode .ev ((eventVector s).setWidth 8) ≠ .ok op.toInstr →
        exec op.toInstr s = .refused .notSelected) ∧
      (∀ op : CtlOp, (s.st = .idle ∨ ∀ c, slotRom s.slot = .ok c → decodeCtl c ≠ .ok op) →
        exec op.toInstr s = .refused .notSelected) ∧
      (∀ a : StfOp, (s.st = .idle ∨ ∀ c, slotRom s.slot = .ok c →
          decodeStfBits (ctlStuffEn c) s.tail (decide (s.esc ≤ s.logicalByte c)) ≠ .ok a) →
        exec a.toInstr s = .refused .notSelected) ∧
      (∀ k : CrcOp, s.selectCrc ≠ .ok k → exec k.toInstr s = .refused .notSelected))

/-- R183, R207, R24: an offered sample is ignored while a frame is in flight: no sample port value has any effect on the step. -/
def Obligations.BusyIgnoresOfferedSample : Prop :=
  ∀ (s : State) (valid : Bool) (p r : Word), s.st = .run →
    s.ports.rst = false →
    step { s with ports := { s.ports with smp_valid := valid, smp_pitch := p, smp_roll := r } } = step s

/-- R183: tx_ready is ignored while IDLE. -/
def Obligations.IdleIgnoresReady : Prop :=
  ∀ (s : State) (ready : Bool), s.st = .idle →
    step { s with ports := { s.ports with tx_ready := ready } } = step s

/-- R33: nothing of one frame can influence the next: two IDLE states that agree in parameters and ports, whatever their checksum and sample
registers hold, agree in every state element after an accept. -/
def Obligations.NoHistoryAcrossFrames : Prop :=
  ∀ s u s' u' : State, s.InPosition → u.InPosition → s.isAccept = true →
    u.st = .idle → u.ports = s.ports → u.cfg = s.cfg →
    step s = .next s' → step u = .next u' →
    s'.st = u'.st ∧ s'.slot = u'.slot ∧ s'.tail = u'.tail ∧ s'.crc = u'.crc ∧
      s'.pitch_q = u'.pitch_q ∧ s'.roll_q = u'.roll_q

/-- R208: back-pressure is unbounded: while tx_ready stays 0 and there is no reset, the block stays in RUN and nothing is delivered, for any number of
cycles. -/
def Obligations.StallMayLastForever : Prop :=
  ∀ (s : State) (ins rest : List Ports), s.InPosition → Stalls s → s.stimulus = ins ++ rest →
    (∀ p ∈ ins, p.rst = false ∧ p.tx_ready = false) →
    ∃ t, Runs ins.length s t ∧ t.st = .run ∧ t.slot = s.slot ∧ t.tail = s.tail ∧ t.crc = s.crc ∧
      t.pitch_q = s.pitch_q ∧ t.roll_q = s.roll_q ∧ t.wire = s.wire

/-- R59 O4, R111: without an accept nothing is delivered: in IDLE, while no sample is offered and there is no reset, no state element changes, for any
number of cycles. -/
def Obligations.NothingIsSentWithoutAccept : Prop :=
  ∀ (s : State) (ins rest : List Ports), s.InPosition → s.st = .idle →
    s.ports.rst = false → s.ports.smp_valid = false → s.stimulus = ins ++ rest →
    (∀ p ∈ ins, p.rst = false ∧ p.smp_valid = false) →
    ∃ t, Runs ins.length s t ∧ t.st = .idle ∧ t.slot = s.slot ∧ t.tail = s.tail ∧ t.crc = s.crc ∧
      t.pitch_q = s.pitch_q ∧ t.roll_q = s.roll_q ∧ t.wire = s.wire

/-! ## The frame -/

/-- R51 and R52: which bits the k-th wire-order byte of a sample word and of the checksum is, in each order. -/
def Obligations.WireOrderBytesAreTheseBits : Prop :=
  (∀ (w : Word) (i : Nat), i < 8 → ∀ k : Fin 4,
    (floatByte .le k w).getLsbD i = w.getLsbD (8 * k.val + i) ∧
    (floatByte .be k w).getLsbD i = w.getLsbD (24 - 8 * k.val + i)) ∧
  (∀ (c : Half) (i : Nat), i < 8 →
    (crcByte .le 0 c).getLsbD i = c.getLsbD i ∧ (crcByte .le 1 c).getLsbD i = c.getLsbD (8 + i) ∧
    (crcByte .be 0 c).getLsbD i = c.getLsbD (8 + i) ∧ (crcByte .be 1 c).getLsbD i = c.getLsbD i)

/-- R148: un-stuffing the stuffed bytes of any list gives the list back, for every value of P_ESC, legal or not. -/
def Obligations.UnstuffOfStuffIsTheBytes : Prop :=
  ∀ (p : Params) (bs : List Byte), unstuff p (stuffAll p bs) = some bs

/-- R149: under a legal parameter set, no byte between the markers is a marker, every P_ESC is a head followed by a tail byte, at most 0xFF - P_ESC and so
at most 0x7F and below P_ESC, and every other byte is below P_ESC. -/
def Obligations.NoMarkerInsideFrame : Prop :=
  ∀ (e : Elaboration) (pitch roll : Word) (pre post : List Byte) (b : Byte),
    stuffAll e.params (interiorBytes e.params pitch roll) = pre ++ b :: post →
    b ≠ e.params.som ∧ b ≠ e.params.eom ∧ b ≤ e.params.esc ∧
    (b = e.params.esc → ∃ t post', post = t :: post' ∧
      t ≤ 0xFF - e.params.esc ∧ 0xFF - e.params.esc ≤ 0x7F ∧ t < e.params.esc)

/-- R146: the wire length is 19 plus the number of interior bytes at or above P_ESC; under a legal parameter set it lies between 19 + h and 19 + h + 10,
where h counts the escaped header constants, and so between 19 and 32. -/
def Obligations.FrameLengthIsBounded : Prop :=
  ∀ (e : Elaboration) (pitch roll : Word),
    let p := e.params
    let w := (frame p pitch roll).length
    let h := [p.len, p.cmd, p.flag].countP (fun v => decide (p.esc ≤ v))
    w = 19 + (interiorBytes p pitch roll).countP (fun v => decide (p.esc ≤ v)) ∧
    19 + h ≤ w ∧ w ≤ 19 + h + 10 ∧ 19 ≤ w ∧ w ≤ 32

/-- R131, R132, R133: the cycle model agrees with the transaction model. From an IDLE state that accepts a sample, with no reset, the bytes delivered are
the sample's frame, in order, one per ready cycle, with tx_sof on its first byte and tx_last on its last byte only: a strict prefix while fewer than
W = |Frame(p, r)| cycles were ready, the block staying in RUN; all of it at the W-th ready cycle, after which the block is in IDLE. -/
def Obligations.AcceptedSampleBecomesItsFrame : Prop :=
  ∀ (s : State) (ins rest : List Ports), s.InPosition → s.isAccept = true →
    s.stimulus = ins ++ rest → (∀ p ∈ ins, p.rst = false) →
    let f := wireFrame s.cfg.params s.ports.smp_pitch s.ports.smp_roll
    f.map WireByte.data = frame s.cfg.params s.ports.smp_pitch s.ports.smp_roll ∧
    (readyCycles ins < f.length →
      ∃ t, Runs (1 + ins.length) s t ∧ t.wire = s.wire ++ f.take (readyCycles ins) ∧ t.st = .run) ∧
    (∀ before last, ins = before ++ [last] → last.tx_ready = true → readyCycles ins = f.length →
      ∃ t, Runs (1 + ins.length) s t ∧ t.wire = s.wire ++ f ∧ t.st = .idle)

/-- R212: with tx_ready = 1 in every cycle after the accept cycle A, wire byte i is transferred in cycle A + 1 + i, so the EOM byte in cycle A + W, and
in cycle A + W + 1 the block is in IDLE. -/
def Obligations.FullThroughputTiming : Prop :=
  ∀ (s : State) (ins rest : List Ports), s.InPosition → s.isAccept = true →
    s.stimulus = ins ++ rest → (∀ p ∈ ins, p.rst = false ∧ p.tx_ready = true) →
    let f := wireFrame s.cfg.params s.ports.smp_pitch s.ports.smp_roll
    ins.length ≤ f.length →
    ∃ t, Runs (1 + ins.length) s t ∧ t.wire = s.wire ++ f.take ins.length ∧
      (t.st = .idle ↔ ins.length = f.length)

/-- R202: reset during a frame truncates it: the wire stream then holds a strict prefix of the frame, and the block is in its reset state. -/
def Obligations.ResetTruncatesTheFrame : Prop :=
  ∀ (s : State) (ins rest : List Ports) (r : Ports), s.InPosition → s.isAccept = true →
    s.stimulus = ins ++ r :: rest → (∀ p ∈ ins, p.rst = false) → r.rst = true →
    let f := wireFrame s.cfg.params s.ports.smp_pitch s.ports.smp_roll
    readyCycles ins < f.length →
    ∃ t, Runs (2 + ins.length) s t ∧ t.wire = s.wire ++ f.take (readyCycles ins) ∧
      t.st = .idle ∧ t.slot = 0 ∧ t.tail = false ∧ t.crc = t.cfg.params.crcInit ∧
      t.pitch_q = 0 ∧ t.roll_q = 0
end

