-- ==== Sys2Proof/Laws/State.lean ====
section
/-! SUPPORT. One lemma per field per update of State, so that no proof unfolds a record update. -/

namespace Sys2Proof.Machine

section
variable (s : State)

/-! ### `deliver` -/

@[simp] theorem deliver_st (b : Byte) : (s.deliver b).st = s.st := rfl
@[simp] theorem deliver_slot (b : Byte) : (s.deliver b).slot = s.slot := rfl
@[simp] theorem deliver_tail (b : Byte) : (s.deliver b).tail = s.tail := rfl
@[simp] theorem deliver_crc (b : Byte) : (s.deliver b).crc = s.crc := rfl
@[simp] theorem deliver_pitch_q (b : Byte) : (s.deliver b).pitch_q = s.pitch_q := rfl
@[simp] theorem deliver_roll_q (b : Byte) : (s.deliver b).roll_q = s.roll_q := rfl
@[simp] theorem deliver_ports (b : Byte) : (s.deliver b).ports = s.ports := rfl
@[simp] theorem deliver_stimulus (b : Byte) : (s.deliver b).stimulus = s.stimulus := rfl
@[simp] theorem deliver_freeCycles (b : Byte) : (s.deliver b).freeCycles = s.freeCycles := rfl
@[simp] theorem deliver_wire (b : Byte) : (s.deliver b).wire = s.wire ++ [{ data := b, sof := s.tx_sof, last := s.tx_last }] := rfl
@[simp] theorem deliver_cfg (b : Byte) : (s.deliver b).cfg = s.cfg := rfl

/-! ### `resetElements` -/

@[simp] theorem resetElements_st : (s.resetElements).st = .idle := rfl
@[simp] theorem resetElements_slot : (s.resetElements).slot = 0 := rfl
@[simp] theorem resetElements_tail : (s.resetElements).tail = false := rfl
@[simp] theorem resetElements_crc : (s.resetElements).crc = s.cfg.params.crcInit := rfl
@[simp] theorem resetElements_pitch_q : (s.resetElements).pitch_q = 0 := rfl
@[simp] theorem resetElements_roll_q : (s.resetElements).roll_q = 0 := rfl
@[simp] theorem resetElements_ports : (s.resetElements).ports = s.ports := rfl
@[simp] theorem resetElements_stimulus : (s.resetElements).stimulus = s.stimulus := rfl
@[simp] theorem resetElements_freeCycles : (s.resetElements).freeCycles = s.freeCycles := rfl
@[simp] theorem resetElements_wire : (s.resetElements).wire = s.wire := rfl
@[simp] theorem resetElements_cfg : (s.resetElements).cfg = s.cfg := rfl

/-! ### `capture` -/

@[simp] theorem capture_st (p r : Word) : (s.capture p r).st = .run := rfl
@[simp] theorem capture_slot (p r : Word) : (s.capture p r).slot = 0 := rfl
@[simp] theorem capture_tail (p r : Word) : (s.capture p r).tail = false := rfl
@[simp] theorem capture_crc (p r : Word) : (s.capture p r).crc = s.cfg.params.crcInit := rfl
@[simp] theorem capture_pitch_q (p r : Word) : (s.capture p r).pitch_q = p := rfl
@[simp] theorem capture_roll_q (p r : Word) : (s.capture p r).roll_q = r := rfl
@[simp] theorem capture_ports (p r : Word) : (s.capture p r).ports = s.ports := rfl
@[simp] theorem capture_stimulus (p r : Word) : (s.capture p r).stimulus = s.stimulus := rfl
@[simp] theorem capture_freeCycles (p r : Word) : (s.capture p r).freeCycles = s.freeCycles := rfl
@[simp] theorem capture_wire (p r : Word) : (s.capture p r).wire = s.wire := rfl
@[simp] theorem capture_cfg (p r : Word) : (s.capture p r).cfg = s.cfg := rfl

/-! ### `toIdle` -/

@[simp] theorem toIdle_st : (s.toIdle).st = .idle := rfl
@[simp] theorem toIdle_slot : (s.toIdle).slot = 0 := rfl
@[simp] theorem toIdle_tail : (s.toIdle).tail = false := rfl
@[simp] theorem toIdle_crc : (s.toIdle).crc = s.crc := rfl
@[simp] theorem toIdle_pitch_q : (s.toIdle).pitch_q = s.pitch_q := rfl
@[simp] theorem toIdle_roll_q : (s.toIdle).roll_q = s.roll_q := rfl
@[simp] theorem toIdle_ports : (s.toIdle).ports = s.ports := rfl
@[simp] theorem toIdle_stimulus : (s.toIdle).stimulus = s.stimulus := rfl
@[simp] theorem toIdle_freeCycles : (s.toIdle).freeCycles = s.freeCycles := rfl
@[simp] theorem toIdle_wire : (s.toIdle).wire = s.wire := rfl
@[simp] theorem toIdle_cfg : (s.toIdle).cfg = s.cfg := rfl

/-! ### `toSlot` -/

@[simp] theorem toSlot_st (k : Slot) : (s.toSlot k).st = .run := rfl
@[simp] theorem toSlot_slot (k : Slot) : (s.toSlot k).slot = k := rfl
@[simp] theorem toSlot_tail (k : Slot) : (s.toSlot k).tail = false := rfl
@[simp] theorem toSlot_crc (k : Slot) : (s.toSlot k).crc = s.crc := rfl
@[simp] theorem toSlot_pitch_q (k : Slot) : (s.toSlot k).pitch_q = s.pitch_q := rfl
@[simp] theorem toSlot_roll_q (k : Slot) : (s.toSlot k).roll_q = s.roll_q := rfl
@[simp] theorem toSlot_ports (k : Slot) : (s.toSlot k).ports = { s.ports with rst := false, tx_ready := true } := rfl
@[simp] theorem toSlot_stimulus (k : Slot) : (s.toSlot k).stimulus = s.stimulus := rfl
@[simp] theorem toSlot_freeCycles (k : Slot) : (s.toSlot k).freeCycles = s.freeCycles := rfl
@[simp] theorem toSlot_wire (k : Slot) : (s.toSlot k).wire = s.wire := rfl
@[simp] theorem toSlot_cfg (k : Slot) : (s.toSlot k).cfg = s.cfg := rfl

/-! ### `advance` -/

@[simp] theorem advance_st : s.advance.st = if s.slot = 18 then .idle else s.st := by
  unfold State.advance; split <;> simp_all
@[simp] theorem advance_slot : s.advance.slot = if s.slot = 18 then 0 else s.slot + 1 := by
  unfold State.advance; split <;> simp_all
@[simp] theorem advance_tail : s.advance.tail = s.tail := by
  unfold State.advance; split <;> rfl
@[simp] theorem advance_crc : s.advance.crc = s.crc := by
  unfold State.advance; split <;> rfl
@[simp] theorem advance_pitch_q : s.advance.pitch_q = s.pitch_q := by
  unfold State.advance; split <;> rfl
@[simp] theorem advance_roll_q : s.advance.roll_q = s.roll_q := by
  unfold State.advance; split <;> rfl
@[simp] theorem advance_ports : s.advance.ports = s.ports := by
  unfold State.advance; split <;> rfl
@[simp] theorem advance_stimulus : s.advance.stimulus = s.stimulus := by
  unfold State.advance; split <;> rfl
@[simp] theorem advance_freeCycles : s.advance.freeCycles = s.freeCycles := by
  unfold State.advance; split <;> rfl
@[simp] theorem advance_wire : s.advance.wire = s.wire := by
  unfold State.advance; split <;> rfl
@[simp] theorem advance_cfg : s.advance.cfg = s.cfg := by
  unfold State.advance; split <;> rfl

/-! ### `nextCycle` -/

@[simp] theorem nextCycle_st : s.nextCycle.st = s.st := by
  unfold State.nextCycle; split <;> rfl
@[simp] theorem nextCycle_slot : s.nextCycle.slot = s.slot := by
  unfold State.nextCycle; split <;> rfl
@[simp] theorem nextCycle_tail : s.nextCycle.tail = s.tail := by
  unfold State.nextCycle; split <;> rfl
@[simp] theorem nextCycle_crc : s.nextCycle.crc = s.crc := by
  unfold State.nextCycle; split <;> rfl
@[simp] theorem nextCycle_pitch_q : s.nextCycle.pitch_q = s.pitch_q := by
  unfold State.nextCycle; split <;> rfl
@[simp] theorem nextCycle_roll_q : s.nextCycle.roll_q = s.roll_q := by
  unfold State.nextCycle; split <;> rfl
@[simp] theorem nextCycle_wire : s.nextCycle.wire = s.wire := by
  unfold State.nextCycle; split <;> rfl
@[simp] theorem nextCycle_cfg : s.nextCycle.cfg = s.cfg := by
  unfold State.nextCycle; split <;> rfl

theorem nextCycle_of_cons {p : Ports} {rest : List Ports} (h : s.stimulus = p :: rest) :
    s.nextCycle = { s with ports := p, stimulus := rest } := by
  unfold State.nextCycle; rw [h]

theorem nextCycle_of_nil (h : s.stimulus = []) :
    s.nextCycle = { s with ports := Config.freePorts s.freeCycles, freeCycles := s.freeCycles + 1 } := by
  unfold State.nextCycle; rw [h]

/-! ### `stuffTransfer`: what no stuffing action changes -/

variable (op : StfOp) (v : Byte)

@[simp] theorem stuffTransfer_crc : (s.stuffTransfer op v).crc = s.crc := by
  cases op <;> simp [State.stuffTransfer]
@[simp] theorem stuffTransfer_pitch_q : (s.stuffTransfer op v).pitch_q = s.pitch_q := by
  cases op <;> simp [State.stuffTransfer]
@[simp] theorem stuffTransfer_roll_q : (s.stuffTransfer op v).roll_q = s.roll_q := by
  cases op <;> simp [State.stuffTransfer]
@[simp] theorem stuffTransfer_ports : (s.stuffTransfer op v).ports = s.ports := by
  cases op <;> simp [State.stuffTransfer]
@[simp] theorem stuffTransfer_stimulus : (s.stuffTransfer op v).stimulus = s.stimulus := by
  cases op <;> simp [State.stuffTransfer]
@[simp] theorem stuffTransfer_freeCycles : (s.stuffTransfer op v).freeCycles = s.freeCycles := by
  cases op <;> simp [State.stuffTransfer]
@[simp] theorem stuffTransfer_cfg : (s.stuffTransfer op v).cfg = s.cfg := by
  cases op <;> simp [State.stuffTransfer]

end

end Sys2Proof.Machine
end

