-- ==== Sys2Proof/Laws/Ops.lean ====
section
/-! SUPPORT. What the shared operations can do, once each: the slot ROM, the position check, the four selections, a slot's transfer. -/

namespace Sys2Proof.Machine

/-! ## Encodings -/

/-- The slot ROM has a word for slots 0 to 18 and for no other (R74). -/
theorem slotRom_ok_iff_le (k : Slot) : (∃ c, slotRom k = .ok c) ↔ k.toNat ≤ 18 := by
  have h : ∀ k : Slot, (match slotRom k with | .ok _ => true | .error _ => false) =
      decide (k.toNat ≤ 18) := by decide
  have hk := h k
  cases hr : slotRom k <;> simp_all

/-- A slot number above 18 is rejected by name (R78). -/
theorem slotRom_error_of_lt {k : Slot} (h : 18 < k.toNat) : slotRom k = .error .reservedSlot := by
  have h' : ∀ k : Slot, 18 < k.toNat → slotRom k = .error .reservedSlot := by decide
  exact h' k h

/-- Every word of the slot ROM is a micro-operation (R74). -/
theorem decodeCtl_of_slotRom {k : Slot} {c : BitVec 6} (h : slotRom k = .ok c) :
    ∃ op, decodeCtl c = .ok op := by
  have h' : ∀ k : Slot, (match slotRom k with
      | .ok c => (match decodeCtl c with | .ok _ => true | .error _ => false)
      | .error _ => true) = true := by decide
  have hk := h' k
  rw [h] at hk
  cases hd : decodeCtl c <;> simp_all

/-- The classes of R72: a slot is stuffed when it is one of 1..17, and checksummed when it is one of 1..15. -/
theorem slotRom_class {k : Slot} {c : BitVec 6} (h : slotRom k = .ok c) :
    ctlStuffEn c = decide (1 ≤ k.toNat ∧ k.toNat ≤ 17) ∧
    ctlCrcEn c = decide (1 ≤ k.toNat ∧ k.toNat ≤ 15) := by
  have h' : ∀ k : Slot, (match slotRom k with
      | .ok c => ctlStuffEn c == decide (1 ≤ k.toNat ∧ k.toNat ≤ 17) &&
          ctlCrcEn c == decide (1 ≤ k.toNat ∧ k.toNat ≤ 15)
      | .error _ => true) = true := by decide
  have hk := h' k
  rw [h] at hk
  simpa using hk

/-! ## Parameters -/

theorem Params.legal_iff (p : Params) : p.legal = true ↔
    0x80#8 ≤ p.esc ∧ p.esc ≤ p.som ∧ p.esc ≤ p.eom ∧
      p.som ≠ p.eom ∧ p.som ≠ p.esc ∧ p.eom ≠ p.esc := by
  simp [Params.legal, Params.w1, Params.w2, Params.w3, Params.w4, and_assoc]

/-- A zero byte is below the escape sentinel (R7 W1). -/
theorem zero_lt_esc (e : Elaboration) : ¬ e.params.esc ≤ (0x00#8) := by
  have h := ((Params.legal_iff e.params).1 e.legal).1
  bv_omega

/-! ## Position -/

/-- The position check of the machine is R23. -/
theorem coherent_iff_inPosition (s : State) : s.Coherent ↔ s.InPosition := by
  unfold State.Coherent State.positionRefusal
  cases hst : s.st with
  | idle =>
    simp only
    constructor
    · intro h
      have h' : s.slot = 0 ∧ s.tail = false := by
        by_contra hc; rw [if_neg hc] at h; cases h
      exact ⟨fun _ => h', by simp [h'.1], by simp [h'.2]⟩
    · intro h; simp [h.idle_at_start hst]
  | run =>
    simp only
    cases hr : slotRom s.slot with
    | error e =>
      simp only [reduceCtorEq, false_iff]
      intro h
      obtain ⟨c, hc⟩ := (slotRom_ok_iff_le s.slot).2 h.slot_le
      simp [hc] at hr
    | ok c =>
      simp only
      constructor
      · intro h
        refine ⟨by simp [hst], (slotRom_ok_iff_le s.slot).1 ⟨c, hr⟩, fun ht => ⟨c, hr, ?_⟩⟩
        by_contra hc
        simp [ht, State.needsEscape] at h
        exact hc h
      · intro h
        cases ht : s.tail with
        | false => simp
        | true =>
          obtain ⟨c', hc', h1, h2⟩ := h.tail_escaped ht
          rw [hr] at hc'; cases hc'
          simp [h1, h2, State.needsEscape]

theorem State.InPosition.coherent {s : State} (h : s.InPosition) : s.positionRefusal = none :=
  (coherent_iff_inPosition s).2 h

/-- A slot in position has a word in the ROM. -/
theorem State.InPosition.rom {s : State} (h : s.InPosition) : ∃ c, slotRom s.slot = .ok c :=
  (slotRom_ok_iff_le s.slot).2 h.slot_le

/-! ## Selections -/

@[simp] theorem runSelected_ok_self {α : Type} [DecidableEq α] (op : α) (k : Result) :
    runSelected (.ok op) op k = k := by simp [runSelected]

/-- An operation completes only when its format selects it. -/
theorem runSelected_next_iff {α : Type} [DecidableEq α] {sel : Except Refusal α} {op : α}
    {k : Result} {t : State} : runSelected sel op k = .next t ↔ sel = .ok op ∧ k = .next t := by
  unfold runSelected
  cases sel with
  | error r => simp
  | ok o => by_cases h : o = op <;> simp [h]

theorem selectEv_of_rst {s : State} (h : s.ports.rst = true) : s.selectEv = .ok .reset := by
  simp [State.selectEv, h]

theorem selectEv_of_inPosition {s : State} (h : s.InPosition) :
    s.selectEv = .ok (decodeEvBits s.ports.rst s.st.isRun s.ports.smp_valid s.ports.tx_ready) := by
  unfold State.selectEv
  rw [h.coherent]
  cases hr : s.ports.rst <;> simp [decodeEvBits]

theorem controlWord_of_run {s : State} {c : BitVec 6} (h : s.InPosition) (hst : s.st = .run)
    (hc : slotRom s.slot = .ok c) : s.controlWord = .ok c := by
  simp [State.controlWord, h.coherent, hst, hc]

theorem controlWord_of_idle {s : State} (h : s.InPosition) (hst : s.st = .idle) :
    s.controlWord = .error .notSelected := by
  simp [State.controlWord, h.coherent, hst]

theorem selectCtl_of_run {s : State} {c : BitVec 6} {op : CtlOp} (h : s.InPosition)
    (hst : s.st = .run) (hc : slotRom s.slot = .ok c) (hd : decodeCtl c = .ok op) :
    s.selectCtl = .ok op := by
  simp [State.selectCtl, controlWord_of_run h hst hc, hd]

theorem slotByte_of_run {s : State} {c : BitVec 6} (h : s.InPosition) (hst : s.st = .run)
    (hc : slotRom s.slot = .ok c) : s.slotByte = s.logicalByte c := by
  simp [State.slotByte, controlWord_of_run h hst hc]

theorem slotCrcEn_of_run {s : State} {c : BitVec 6} (h : s.InPosition) (hst : s.st = .run)
    (hc : slotRom s.slot = .ok c) : s.slotCrcEn = ctlCrcEn c := by
  simp [State.slotCrcEn, controlWord_of_run h hst hc]

theorem selectStf_of_run {s : State} {c : BitVec 6} {a : StfOp} (h : s.InPosition)
    (hst : s.st = .run) (hc : slotRom s.slot = .ok c)
    (ha : decodeStfBits (ctlStuffEn c) s.tail (s.needsEscape (s.logicalByte c)) = .ok a) :
    s.selectStf = .ok a := by
  simp [State.selectStf, controlWord_of_run h hst hc, ha]

/-- The accumulator's action in a cycle of a frame in flight (R77). -/
theorem selectCrc_of_run {s : State} {c : BitVec 6} (h : s.InPosition) (hst : s.st = .run)
    (hrst : s.ports.rst = false) (hc : slotRom s.slot = .ok c) :
    s.selectCrc = .ok (if s.ports.tx_ready && ctlCrcEn c && !s.tail then .upd else .hold) := by
  simp [State.selectCrc, hrst, h.coherent, slotCrcEn_of_run h hst hc, State.crcAcc,
    State.crcQualifier, hst, St.isRun, decodeCrcvBits]

/-- The accumulator's action in IDLE (R77). -/
theorem selectCrc_of_idle {s : State} (h : s.InPosition) (hst : s.st = .idle)
    (hrst : s.ports.rst = false) :
    s.selectCrc = .ok (if s.ports.smp_valid then .init else .hold) := by
  cases hv : s.ports.smp_valid <;>
    simp [State.selectCrc, hrst, h.coherent, State.crcAcc, State.crcQualifier, hst, St.isRun,
      decodeCrcvBits, hv]

/-! ## A slot's transfer -/

/-- The only states a slot operation can lead to: the state itself, or the transfer of one byte with its checksum action. -/
theorem emitSlot_next {s t : State} {cls : SlotClass} {v : Byte} (h : s.emitSlot cls v = .next t) :
    t = s ∨ (s.isTransfer = true ∧ ∃ op a,
      decodeStfBits cls.stuffEn s.tail (s.needsEscape v) = .ok op ∧
      decodeCrcvBits s.ports.rst s.crcAcc (s.crcQualifier cls.crcEn) = .ok a ∧
      t = { s.stuffTransfer op v with crc := crcNext a s.cfg.params v s.crc }) := by
  unfold State.emitSlot at h
  by_cases ht : s.isTransfer = true
  · rw [if_pos ht] at h
    unfold State.transferByte at h
    right
    cases h1 : decodeStfBits cls.stuffEn s.tail (s.needsEscape v) with
    | error e => simp [h1] at h
    | ok op =>
      cases h2 : decodeCrcvBits s.ports.rst s.crcAcc (s.crcQualifier cls.crcEn) with
      | error e => simp [h1, h2] at h
      | ok a =>
        simp only [h1, h2, Host.Outcome.next.injEq] at h
        exact ⟨ht, op, a, rfl, rfl, h.symm⟩
  · rw [if_neg ht] at h
    simp only [Host.Outcome.next.injEq] at h
    exact .inl h.symm

/-- A slot operation whose stuffing decision is `op`, in a transfer cycle. -/
theorem emitSlot_of_transfer {s : State} {cls : SlotClass} {v : Byte} {op : StfOp}
    (hst : s.st = .run) (hrst : s.ports.rst = false) (hrdy : s.ports.tx_ready = true)
    (hop : decodeStfBits cls.stuffEn s.tail (s.needsEscape v) = .ok op) :
    s.emitSlot cls v = .next
      { s.stuffTransfer op v with
        crc := if cls.crcEn && !s.tail then crcUpd s.crc v else s.crc } := by
  simp only [State.emitSlot, State.isTransfer, hrst, State.tx_valid, hst, St.isRun, hrdy,
    State.transferByte, hop, State.crcAcc, State.crcQualifier, decodeCrcvBits]
  cases cls.crcEn <;> cases s.tail <;> simp [crcNext]

/-- Every slot operation is its class and its logical byte. -/
theorem runSlotOp_eq (op : CtlOp) (s : State) :
    ∃ cls v, runSlotOp op s = runSelected s.selectCtl op (s.emitSlot cls v) := by
  cases op <;> exact ⟨_, _, rfl⟩

/-- `exec` on a slot micro-operation is that slot operation. -/
theorem exec_ctl (op : CtlOp) (s : State) : exec op.toInstr s = runSlotOp op s := by
  cases op <;> rfl

/-- Delivering a byte is appending it to the wire stream with the cycle's marker outputs. -/
theorem stuffTransfer_wire (s : State) (op : StfOp) (v : Byte) :
    ∃ b, (s.stuffTransfer op v).wire = s.wire ++ [{ data := b, sof := s.tx_sof, last := s.tx_last }] := by
  cases op <;> exact ⟨_, by simp [State.stuffTransfer]; rfl⟩

end Sys2Proof.Machine
end

