-- ==== Sys2Proof/Laws/PerInstr.lean ====
section
/-! SUPPORT. One law per operation of spec/opcode_table.json: its match value uses no bit outside its mask, its mask uses no bit outside its
format's width, and its match value is a vector the format has. -/

namespace Sys2Proof.Laws.FixedBits

/-- The row's match lies inside its mask, its mask inside its format's bits, and the match is no reserved vector. -/
def Statement (i : Instr) : Prop :=
  i.encoding.value &&& ~~~i.encoding.mask = 0 ∧
  i.encoding.mask &&& ~~~i.encoding.format.allOnes = 0 ∧
  wellFormedVector i.encoding.format i.encoding.value.toNat = true

theorem reset : Statement .reset := by unfold Statement; decide
theorem accept : Statement .accept := by unfold Statement; decide
theorem idleWait : Statement .idleWait := by unfold Statement; decide
theorem stall : Statement .stall := by unfold Statement; decide
theorem xfer : Statement .xfer := by unfold Statement; decide
theorem emitRawSom : Statement .emitRawSom := by unfold Statement; decide
theorem emitScLen : Statement .emitScLen := by unfold Statement; decide
theorem emitScCmd : Statement .emitScCmd := by unfold Statement; decide
theorem emitScFlag : Statement .emitScFlag := by unfold Statement; decide
theorem emitScPb0 : Statement .emitScPb0 := by unfold Statement; decide
theorem emitScPb1 : Statement .emitScPb1 := by unfold Statement; decide
theorem emitScPb2 : Statement .emitScPb2 := by unfold Statement; decide
theorem emitScPb3 : Statement .emitScPb3 := by unfold Statement; decide
theorem emitScRb0 : Statement .emitScRb0 := by unfold Statement; decide
theorem emitScRb1 : Statement .emitScRb1 := by unfold Statement; decide
theorem emitScRb2 : Statement .emitScRb2 := by unfold Statement; decide
theorem emitScRb3 : Statement .emitScRb3 := by unfold Statement; decide
theorem emitScZero : Statement .emitScZero := by unfold Statement; decide
theorem emitSCk0 : Statement .emitSCk0 := by unfold Statement; decide
theorem emitSCk1 : Statement .emitSCk1 := by unfold Statement; decide
theorem emitRawEom : Statement .emitRawEom := by unfold Statement; decide
theorem rawemit : Statement .rawemit := by unfold Statement; decide
theorem pass : Statement .pass := by unfold Statement; decide
theorem head : Statement .head := by unfold Statement; decide
theorem tail : Statement .tail := by unfold Statement; decide
theorem crcRst : Statement .crcRst := by unfold Statement; decide
theorem crcInit : Statement .crcInit := by unfold Statement; decide
theorem crcUpd : Statement .crcUpd := by unfold Statement; decide
theorem crcHold : Statement .crcHold := by unfold Statement; decide

end Sys2Proof.Laws.FixedBits
end

