-- ==== Sys2Proof/Laws/Step.lean ====
section
/-! SUPPORT. What the meanings answer in a cycle of a legal position, what a step can do (`step_cases`), and how runs unfold. Later proofs cite
these and unfold neither `exec` nor `step`. -/

namespace Sys2Proof.Machine

/-! ## Facts of a position -/

/-- A stuffed slot is not the end marker's. -/
theorem slot_ne_eom_of_stuffed {s : State} {c : BitVec 6} (hc : slotRom s.slot = .ok c)
    (h : ctlStuffEn c = true) : ¬ s.slot = 18 := by
  have hcls := (slotRom_class hc).1
  rw [h] at hcls
  intro h18
  rw [h18] at hcls
  simp at hcls

/-- Before the end marker's slot, the slot counter goes up by one without wrapping. -/
theorem slot_succ {k : Slot} (h : k.toNat ≤ 18) (h18 : ¬ k = 18) :
    (k + 1).toNat = k.toNat + 1 ∧ k.toNat ≤ 17 := by
  have hne : k.toNat ≠ 18 := fun h' => h18 (BitVec.eq_of_toNat_eq h')
  refine ⟨?_, by omega⟩
  rw [BitVec.toNat_add]
  simp
  omega

/-- A raw slot has no pending tail. -/
theorem tail_false_of_raw {s : State} {c : BitVec 6} (hp : s.InPosition)
    (hc : slotRom s.slot = .ok c) (he : ctlStuffEn c = false) : s.tail = false := by
  cases htl : s.tail with
  | false => rfl
  | true =>
    obtain ⟨c', hc', he', -⟩ := hp.tail_escaped htl
    rw [hc] at hc'
    cases hc'
    simp [he] at he'

/-- In a legal position the stuffing vector is never reserved (R76). -/
theorem stuffing_decodes {s : State} {c : BitVec 6} (hp : s.InPosition)
    (hc : slotRom s.slot = .ok c) :
    ∃ a, decodeStfBits (ctlStuffEn c) s.tail (s.needsEscape (s.logicalByte c)) = .ok a := by
  cases ht : s.tail with
  | false => cases ctlStuffEn c <;> simp [decodeStfBits]
  | true =>
    obtain ⟨c', hc', h1, h2⟩ := hp.tail_escaped ht
    rw [hc] at hc'
    cases hc'
    simp [decodeStfBits, h1, State.needsEscape, h2]

/-- Two states with the same six state elements and parameters have the same outputs and the same position check. -/
theorem outputs_congr {s t : State} (h1 : t.st = s.st) (h2 : t.slot = s.slot) (h3 : t.tail = s.tail)
    (h4 : t.crc = s.crc) (h5 : t.pitch_q = s.pitch_q) (h6 : t.roll_q = s.roll_q)
    (h7 : t.cfg = s.cfg) : t.outputs = s.outputs ∧ t.positionRefusal = s.positionRefusal := by
  cases s
  cases t
  simp only at h1 h2 h3 h4 h5 h6 h7
  subst h1 h2 h3 h4 h5 h6 h7
  exact ⟨rfl, rfl⟩

/-- The next cycle's port values do not move the position. -/
theorem nextCycle_inPosition {s : State} : s.nextCycle.InPosition ↔ s.InPosition := by
  rw [← coherent_iff_inPosition, ← coherent_iff_inPosition]
  unfold State.Coherent
  rw [(outputs_congr (s := s) (t := s.nextCycle) (by simp) (by simp) (by simp) (by simp) (by simp)
    (by simp) (by simp)).2]

/-! ## The stuffing actions, field by field -/

theorem stuffTransfer_rawemit {s : State} (hs : s.st = .run) (v : Byte) :
    s.stuffTransfer .rawemit v =
      if s.slot = 18 then
        { s with wire := s.wire ++ [{ data := v, sof := decide (s.slot = 0), last := decide (s.slot = 18) }],
                 tail := false, st := .idle, slot := 0 }
      else
        { s with wire := s.wire ++ [{ data := v, sof := decide (s.slot = 0), last := decide (s.slot = 18) }],
                 tail := false, slot := s.slot + 1 } := by
  simp only [State.stuffTransfer, State.advance, State.deliver, State.tx_sof, State.tx_last, hs,
    St.isRun, Bool.true_and]

theorem stuffTransfer_pass {s : State} (hs : s.st = .run) (v : Byte) (h : ¬ s.slot = 18) :
    s.stuffTransfer .pass v =
      { s with wire := s.wire ++ [{ data := v, sof := decide (s.slot = 0), last := decide (s.slot = 18) }],
               tail := false, slot := s.slot + 1 } := by
  simp only [State.stuffTransfer, State.advance, State.deliver, State.tx_sof, State.tx_last, hs,
    St.isRun, Bool.true_and]
  rw [if_neg h]

theorem stuffTransfer_head {s : State} (hs : s.st = .run) (v : Byte) :
    s.stuffTransfer .head v =
      { s with wire := s.wire ++ [{ data := s.esc, sof := decide (s.slot = 0), last := decide (s.slot = 18) }],
               tail := true } := by
  simp only [State.stuffTransfer, State.deliver, State.tx_sof, State.tx_last, hs, St.isRun,
    Bool.true_and]

theorem stuffTransfer_tail {s : State} (hs : s.st = .run) (v : Byte) (h : ¬ s.slot = 18) :
    s.stuffTransfer .tail v =
      { s with wire := s.wire ++ [{ data := v - s.esc, sof := decide (s.slot = 0), last := decide (s.slot = 18) }],
               tail := false, slot := s.slot + 1 } := by
  simp only [State.stuffTransfer, State.advance, State.deliver, State.tx_sof, State.tx_last, hs,
    St.isRun, Bool.true_and]
  rw [if_neg h]

/-! ## What the meanings answer -/

/-- A micro-operation's own class and logical byte are those its control word gives. -/
theorem runSlotOp_of_word {s : State} {c : BitVec 6} {op : CtlOp} (hd : decodeCtl c = .ok op) :
    ∃ cls : SlotClass, cls.stuffEn = ctlStuffEn c ∧ cls.crcEn = ctlCrcEn c ∧
      runSlotOp op s = runSelected s.selectCtl op (s.emitSlot cls (s.logicalByte c)) := by
  have h : ∀ c : BitVec 6, (match decodeCtl c with
      | .error _ => true
      | .ok op => c == op.toInstr.encoding.value.setWidth 6) = true := by decide
  have hc := h c
  rw [hd] at hc
  have hc : c = op.toInstr.encoding.value.setWidth 6 := by simpa using hc
  subst hc
  cases op
  case rawSom => exact ⟨.raw, rfl, rfl, rfl⟩
  case rawEom => exact ⟨.raw, rfl, rfl, rfl⟩
  case sCk0 => exact ⟨.s, rfl, rfl, rfl⟩
  case sCk1 => exact ⟨.s, rfl, rfl, rfl⟩
  all_goals exact ⟨.sc, rfl, rfl, rfl⟩

/-- XFER is the slot's micro-operation. -/
theorem exec_xfer_of_transfer {s : State} {c : BitVec 6} {op : CtlOp} (hp : s.InPosition)
    (ht : Transfers s) (hc : slotRom s.slot = .ok c) (hd : decodeCtl c = .ok op) :
    exec .xfer s = exec op.toInstr s := by
  obtain ⟨hs, hr, hv⟩ := ht
  show runSelected s.selectEv .xfer _ = _
  rw [selectEv_of_inPosition hp, exec_ctl]
  simp [hr, hs, hv, decodeEvBits, St.isRun, selectCtl_of_run hp hs hc hd]

/-- The slot's micro-operation in a transfer cycle: its stuffing action and its checksum action. -/
theorem exec_ctl_of_transfer {s : State} {c : BitVec 6} {op : CtlOp} {a : StfOp}
    (hp : s.InPosition) (ht : Transfers s) (hc : slotRom s.slot = .ok c)
    (hd : decodeCtl c = .ok op)
    (ha : decodeStfBits (ctlStuffEn c) s.tail (s.needsEscape (s.logicalByte c)) = .ok a) :
    exec op.toInstr s = .next
      { s.stuffTransfer a (s.logicalByte c) with
        crc := if ctlCrcEn c && !s.tail then crcUpd s.crc (s.logicalByte c) else s.crc } := by
  obtain ⟨hs, hr, hv⟩ := ht
  obtain ⟨cls, h1, h2, h3⟩ := runSlotOp_of_word (s := s) hd
  rw [exec_ctl, h3, selectCtl_of_run hp hs hc hd, runSelected_ok_self,
    emitSlot_of_transfer hs hr hv (op := a) (by rw [h1]; exact ha), h2]

theorem exec_stf_eq (a : StfOp) (s : State) :
    exec a.toInstr s = runSelected s.selectStf a (s.stuffCycle a) := by
  cases a <;> rfl

/-- The stuffing operation of a transfer cycle. -/
theorem exec_stf_of_transfer {s : State} {c : BitVec 6} {a : StfOp} (hp : s.InPosition)
    (ht : Transfers s) (hc : slotRom s.slot = .ok c)
    (ha : decodeStfBits (ctlStuffEn c) s.tail (s.needsEscape (s.logicalByte c)) = .ok a) :
    exec a.toInstr s = .next (s.stuffTransfer a (s.logicalByte c)) := by
  obtain ⟨hs, hr, hv⟩ := ht
  have hx : s.isTransfer = true := by
    simp [State.isTransfer, State.tx_valid, hs, hr, hv, St.isRun]
  rw [exec_stf_eq, selectStf_of_run hp hs hc ha, runSelected_ok_self, State.stuffCycle, hx,
    slotByte_of_run hp hs hc]
  rfl

theorem exec_crc_eq (k : CrcOp) (s : State) :
    exec k.toInstr s =
      runSelected s.selectCrc k (.next { s with crc := crcNext k s.cfg.params s.slotByte s.crc }) := by
  cases k <;> rfl

/-- The selected checksum action. -/
theorem exec_crc_of_selected {s : State} {k : CrcOp} (h : s.selectCrc = .ok k) :
    exec k.toInstr s = .next { s with crc := crcNext k s.cfg.params s.slotByte s.crc } := by
  rw [exec_crc_eq, h, runSelected_ok_self]

/-! ## The step -/

theorem step_of_selected {s t : State} {op : EvOp} (h : s.selectEv = .ok op)
    (h2 : exec op.toInstr s = .next t) : step s = .next t.nextCycle := by
  simp [step, h, h2]

theorem step_reset {s : State} (h : s.ports.rst = true) : step s = .next s.resetElements.nextCycle :=
  step_of_selected (selectEv_of_rst h)
    (by show runSelected s.selectEv .reset _ = _; rw [selectEv_of_rst h, runSelected_ok_self])

theorem step_accept {s : State} (hp : s.InPosition) (hs : s.st = .idle) (hr : s.ports.rst = false)
    (hv : s.ports.smp_valid = true) :
    step s = .next (s.capture s.ports.smp_pitch s.ports.smp_roll).nextCycle := by
  have h : s.selectEv = .ok .accept := by
    rw [selectEv_of_inPosition hp]
    simp [hr, hs, hv, decodeEvBits, St.isRun]
  exact step_of_selected h
    (by show runSelected s.selectEv .accept _ = _; rw [h, runSelected_ok_self])

theorem step_idleWait {s : State} (hp : s.InPosition) (hs : s.st = .idle)
    (hr : s.ports.rst = false) (hv : s.ports.smp_valid = false) : step s = .next s.nextCycle := by
  have h : s.selectEv = .ok .idleWait := by
    rw [selectEv_of_inPosition hp]
    simp [hr, hs, hv, decodeEvBits, St.isRun]
  exact step_of_selected h
    (by show runSelected s.selectEv .idleWait _ = _; rw [h, runSelected_ok_self])

theorem step_stall {s : State} (hp : s.InPosition) (hs : Stalls s) : step s = .next s.nextCycle := by
  have h : s.selectEv = .ok .stall := by
    rw [selectEv_of_inPosition hp]
    simp [hs.1, hs.2.1, hs.2.2, decodeEvBits, St.isRun]
  exact step_of_selected h
    (by show runSelected s.selectEv .stall _ = _; rw [h, runSelected_ok_self])

theorem step_xfer {s : State} {c : BitVec 6} {a : StfOp} (hp : s.InPosition) (ht : Transfers s)
    (hc : slotRom s.slot = .ok c)
    (ha : decodeStfBits (ctlStuffEn c) s.tail (s.needsEscape (s.logicalByte c)) = .ok a) :
    step s = .next
      ({ s.stuffTransfer a (s.logicalByte c) with
          crc := if ctlCrcEn c && !s.tail then crcUpd s.crc (s.logicalByte c) else s.crc } :
        State).nextCycle := by
  have h : s.selectEv = .ok .xfer := by
    rw [selectEv_of_inPosition hp]
    simp [ht.1, ht.2.1, ht.2.2, decodeEvBits, St.isRun]
  obtain ⟨op, hop⟩ := decodeCtl_of_slotRom hc
  refine step_of_selected h ?_
  rw [show EvOp.xfer.toInstr = Instr.xfer from rfl, exec_xfer_of_transfer hp ht hc hop,
    exec_ctl_of_transfer hp ht hc hop ha]

/-- Everything a step can do: a reset from any state, or, in a legal position, an accept, an idle wait, a stall, or the transfer of one byte. -/
theorem step_cases {s t : State} (h : step s = .next t) :
    (s.ports.rst = true ∧ t = s.resetElements.nextCycle) ∨
    (s.ports.rst = false ∧ s.InPosition ∧
      ((s.st = .idle ∧ s.ports.smp_valid = true ∧
          t = (s.capture s.ports.smp_pitch s.ports.smp_roll).nextCycle) ∨
       (s.st = .idle ∧ s.ports.smp_valid = false ∧ t = s.nextCycle) ∨
       (Stalls s ∧ t = s.nextCycle) ∨
       (Transfers s ∧ ∃ c a, slotRom s.slot = .ok c ∧
          decodeStfBits (ctlStuffEn c) s.tail (s.needsEscape (s.logicalByte c)) = .ok a ∧
          t = ({ s.stuffTransfer a (s.logicalByte c) with
                  crc := if ctlCrcEn c && !s.tail then crcUpd s.crc (s.logicalByte c) else s.crc } :
                State).nextCycle))) := by
  cases hr : s.ports.rst with
  | true =>
    rw [step_reset hr] at h
    cases h
    exact .inl ⟨rfl, rfl⟩
  | false =>
    right
    have hp : s.InPosition := by
      rw [← coherent_iff_inPosition]
      unfold State.Coherent
      cases hq : s.positionRefusal with
      | none => rfl
      | some r => simp [step, State.selectEv, hr, hq] at h
    refine ⟨rfl, hp, ?_⟩
    cases hs : s.st with
    | idle =>
      cases hv : s.ports.smp_valid with
      | true =>
        rw [step_accept hp hs hr hv] at h
        cases h
        exact .inl ⟨rfl, rfl, rfl⟩
      | false =>
        rw [step_idleWait hp hs hr hv] at h
        cases h
        exact .inr (.inl ⟨rfl, rfl, rfl⟩)
    | run =>
      cases hv : s.ports.tx_ready with
      | false =>
        have hst : Stalls s := ⟨hs, hr, hv⟩
        rw [step_stall hp hst] at h
        cases h
        exact .inr (.inr (.inl ⟨hst, rfl⟩))
      | true =>
        have ht : Transfers s := ⟨hs, hr, hv⟩
        obtain ⟨c, hc⟩ := hp.rom
        obtain ⟨a, ha⟩ := stuffing_decodes hp hc
        rw [step_xfer hp ht hc ha] at h
        cases h
        exact .inr (.inr (.inr ⟨ht, c, a, hc, ha, rfl⟩))

/-! ## Runs -/

theorem runs_zero (s t : State) : Runs 0 s t ↔ s = t := by
  unfold Runs
  show (Host.Outcome.next s = Host.Outcome.next t) ↔ _
  simp

theorem core_run_succ (M : Host.Core) (n : Nat) (s t : M.State) :
    M.run (n + 1) s = .next t ↔ ∃ u, M.step s = .next u ∧ M.run n u = .next t := by
  rw [Host.Core.run]
  cases M.step s <;> simp

theorem runs_succ (n : Nat) (s t : State) :
    Runs (n + 1) s t ↔ ∃ u, step s = .next u ∧ Runs n u t :=
  core_run_succ Sys2Proof.core n s t

theorem runs_add {n m : Nat} {s u t : State} (h1 : Runs n s u) (h2 : Runs m u t) :
    Runs (n + m) s t := by
  induction n generalizing s with
  | zero =>
    rw [runs_zero] at h1
    subst h1
    simpa using h2
  | succ n ih =>
    obtain ⟨v, g1, g2⟩ := (runs_succ _ _ _).1 h1
    rw [Nat.succ_add_eq_add_succ]
    exact (runs_succ _ _ _).2 ⟨v, g1, ih g2⟩

end Sys2Proof.Machine
end

