-- ==== Sys2Proof/Tests/Slice0.lean ====
section
/-! SUPPORT. The model's own tests: the WellFormed smoke tests, decoding, one or two steps' worth of each operation, and a witness for the hypotheses of
every statement. Expected values are those of spec/95_test_vectors.md and of the examples in the rules R110 to R166; the parameter set is its TC-A unless a
test says otherwise (invented for testing, NOT the device's values). -/

namespace Sys2Proof.Tests

open Sys2Proof Sys2Proof.Machine

/-! ## Builders -/

/-- TC-A. -/
def tcA : Elaboration := { params := Params.tcA, legal := by decide }

/-- TC-B: every header constant is escaped. -/
def tcB : Elaboration :=
  { params := { Params.tcA with len := 0xFF, cmd := 0xA0, flag := 0xA1 }, legal := by decide }

/-- TC-A with both orders BE (vector F7). -/
def tcBE : Elaboration :=
  { params := { Params.tcA with floatOrder := .be, crcOrder := .be }, legal := by decide }

/-- IDLE after reset, one quiet cycle still to come. -/
def idle : State :=
  { st := .idle, slot := 0, tail := false, crc := 0xE295, pitch_q := 0, roll_q := 0,
    ports := quietPorts, stimulus := [quietPorts], freeCycles := 0, wire := [], cfg := tcA }

/-- A cycle that offers the sample of vector F1. -/
def offer : Ports :=
  { rst := false, smp_valid := true, smp_pitch := 0x41200000, smp_roll := 0xC0A00000, tx_ready := false }

/-- A cycle whose consumer is ready. -/
def ready : Ports := { quietPorts with tx_ready := true }

/-- IDLE in a cycle that accepts the sample of F1. -/
def accepting : State := { idle with ports := offer }

/-- A cycle of the frame F1 with a ready consumer: slot `k`, its pending tail, and the accumulator before the edge. -/
def inSlot (k : Slot) (tail : Bool) (crc : Half) : State :=
  { idle with st := .run, slot := k, tail := tail, crc := crc, pitch_q := 0x41200000,
              roll_q := 0xC0A00000, ports := ready }

/-- `s` with its consumer not ready. -/
def stalled (s : State) : State := { s with ports := quietPorts }

/-- `s` in a reset cycle. -/
def inReset (s : State) : State := { s with ports := { s.ports with rst := true } }

/-- What one operation leaves: the bytes delivered, crc, tail and slot; nothing if it does not complete. -/
def seen (r : Result) : Option (List Byte × Half × Bool × Slot) :=
  match r with
  | .next t => some (t.wire.map WireByte.data, t.crc, t.tail, t.slot)
  | .fault _ => none
  | .refused _ => none

/-- Why an operation is refused, if it is. -/
def refusal (r : Result) : Option Refusal :=
  match r with
  | .next _ => none
  | .fault _ => none
  | .refused q => some q

/-- A state whose position check passes is in position. -/
theorem pos {s : State} (h : s.Coherent) : s.InPosition := (coherent_iff_inPosition s).1 h

/-! ## WellFormed: each check refuses an ill-formed term -/

theorem test_w1_refused : { Params.tcA with esc := 0x7F }.check = some .escBelow0x80 := by decide
theorem test_w2_refused : { Params.tcA with som := 0x9F }.check = some .somBelowEsc := by decide
theorem test_w3_refused : { Params.tcA with eom := 0x9F }.check = some .eomBelowEsc := by decide
theorem test_w4_refused :
    { Params.tcA with eom := 0xA1 }.check = some .controlBytesNotDistinct ∧
    { Params.tcA with som := 0xA0 }.check = some .controlBytesNotDistinct ∧
    { Params.tcA with eom := 0xA0 }.check = some .controlBytesNotDistinct := by decide
theorem test_illegal_not_elaborated : { Params.tcA with eom := 0xA1 }.elaborate = none := by decide
theorem test_legal_elaborated : Params.tcA.check = none ∧ Params.tcA.elaborate = some tcA := by decide
theorem test_vectors_refused :
    wellFormedVector .ev 16 = false ∧ wellFormedVector .ctl 0x15 = false ∧
    wellFormedVector .stf 0b010 = false ∧ wellFormedVector .stf 0b011 = false ∧
    wellFormedVector .stf 0b110 = false ∧ wellFormedVector .crcv 0b011 = false := by decide

/-! ## Decoding: words written bit by bit from R70, R74, R76, R77 -/

theorem test_decode_events :
    (List.range 16).map (fun w => decode .ev (BitVec.ofNat 8 w)) =
      [.ok .idleWait, .ok .idleWait, .ok .accept, .ok .accept, .ok .stall, .ok .xfer, .ok .stall, .ok .xfer,
       .ok .reset, .ok .reset, .ok .reset, .ok .reset, .ok .reset, .ok .reset, .ok .reset, .ok .reset] := by decide
theorem test_decode_slot_words :
    [0b000000, 0b110001, 0b110010, 0b110011, 0b110100, 0b110101, 0b110110, 0b110111].map (decode .ctl) =
      [.ok .emitRawSom, .ok .emitScLen, .ok .emitScCmd, .ok .emitScFlag, .ok .emitScPb0, .ok .emitScPb1,
       .ok .emitScPb2, .ok .emitScPb3] ∧
    [0b111000, 0b111001, 0b111010, 0b111011, 0b111100, 0b101101, 0b101110, 0b001111].map (decode .ctl) =
      [.ok .emitScRb0, .ok .emitScRb1, .ok .emitScRb2, .ok .emitScRb3, .ok .emitScZero, .ok .emitSCk0,
       .ok .emitSCk1, .ok .emitRawEom] := by decide
theorem test_decode_stuffing :
    [0b000, 0b001, 0b010, 0b011, 0b100, 0b101, 0b110, 0b111].map (decode .stf) =
      [.ok .rawemit, .ok .rawemit, .error .reservedStuffing, .error .reservedStuffing, .ok .pass, .ok .head,
       .error .reservedStuffing, .ok .tail] := by decide
theorem test_decode_checksum :
    [0b000, 0b001, 0b010, 0b011, 0b100, 0b101, 0b110, 0b111].map (decode .crcv) =
      [.ok .crcHold, .ok .crcUpd, .ok .crcInit, .error .reservedChecksumAction, .ok .crcRst, .ok .crcRst,
       .ok .crcRst, .ok .crcRst] := by decide
/-- cls = 01 is reserved whatever src is (R72, R78). -/
theorem test_decode_cls01 :
    ∀ src : BitVec 4, decodeCtl ((0b01 : BitVec 2) ++ src) = .error .reservedControlWord := by decide
theorem test_decode_too_wide : decode .stf 0b1000 = .error .tooWide := by decide
/-- What the host's table words are read as (log entry 7). -/
theorem test_table_words :
    decodeTableWord 8 0x8 = some .reset ∧ decodeTableWord 8 0x5 = some .xfer ∧
    decodeTableWord 8 0x31 = some .emitScLen ∧ decodeTableWord 8 0x0F = some .emitRawEom ∧
    decodeTableWord 8 0x7 = some .tail ∧ decodeTableWord 8 0x1 = some .crcUpd ∧
    decodeTableWord 8 0x15 = none := by decide
/-- A placed word runs as the very next operation: EMIT.SC LEN delivers the length byte. -/
theorem test_placed_word_runs : seen (step (idle.withFetchWord 8 0x31)) = some ([0x13], 0x6A3E, false, 2) := by decide

/-! ## Arithmetic: §2.2 and §2.3 of 95_test_vectors.md -/

theorem test_crc_single_steps :
    crcUpd 0x0000 0x01 = 0x1021 ∧ crcUpd 0x0000 0xFF = 0x1EF0 ∧ crcUpd 0xFFFF 0x00 = 0xE1F0 ∧
    crcUpd 0xFFFF 0xFF = 0xFF00 ∧ crcUpd 0xE2D5 0x13 = 0x2A3E ∧ crcUpd 0x1234 0x56 = 0x3C40 ∧
    crcUpd 0x8000 0x00 = 0x9188 ∧ crcUpd 0x0080 0x80 = 0x1188 ∧ crcUpd 0xBAF4 0x00 = 0xF291 := by decide
theorem test_crc_bitwise_steps : crcBit 0x1234 0x56 = 0x3C40 ∧ crcBit 0x0080 0x80 = 0x1188 := by decide
theorem test_stuff :
    [0x00, 0x9F, 0xA0, 0xA1, 0xA2, 0xC0, 0xFF].map (stuff Params.tcA) =
      [[0x00], [0x9F], [0xA0, 0x00], [0xA0, 0x01], [0xA0, 0x02], [0xA0, 0x20], [0xA0, 0x5F]] := by decide
/-- R168: over the escaped bytes the fold would be 0xC1D4. -/
theorem test_checksum_f1 :
    checksum Params.tcA 0x41200000 0xC0A00000 = 0xBAF4 ∧
    crcFold 0xE295 (stuffAll Params.tcA (covered Params.tcA 0x41200000 0xC0A00000)) = 0xC1D4 := by decide
theorem test_frame_f1 :
    frame Params.tcA 0x41200000 0xC0A00000 =
      [0xA1, 0x13, 0x01, 0x02, 0x00, 0x00, 0x20, 0x41, 0x00, 0x00, 0xA0, 0x00, 0xA0, 0x20,
       0x00, 0x00, 0x00, 0x00, 0xA0, 0x54, 0xA0, 0x1A, 0xA2] := by decide
theorem test_frame_f7_big_endian :
    frame tcBE.params 0x41200000 0xC0A00000 =
      [0xA1, 0x13, 0x01, 0x02, 0x41, 0x20, 0x00, 0x00, 0xA0, 0x20, 0xA0, 0x00, 0x00, 0x00,
       0x00, 0x00, 0x00, 0x00, 0x5F, 0x82, 0xA2] := by decide
/-- F10: the 32-byte maximum of R146. -/
theorem test_frame_f10_longest :
    (frame tcB.params 0xBBFDBDB3 0xB1B6A4A7).length = 32 ∧
    (frame tcB.params 0xBBFDBDB3 0xB1B6A4A7).take 7 = [0xA1, 0xA0, 0x5F, 0xA0, 0x00, 0xA0, 0x01] ∧
    checksum tcB.params 0xBBFDBDB3 0xB1B6A4A7 = 0xBCEA := by
  refine ⟨?_, ?_, ?_⟩
  · rfl
  · decide
  · decide
theorem test_logical_f9 :
    logical Params.tcA 0xA0A0A0A0 0xA4A3A2A1 =
      [0xA1, 0x13, 0x01, 0x02, 0xA0, 0xA0, 0xA0, 0xA0, 0xA1, 0xA2, 0xA3, 0xA4, 0x00, 0x00,
       0x00, 0x00, 0x49, 0x2F, 0xA2] := by decide
theorem test_unstuff_truncated_pair : unstuff Params.tcA [0x13, 0xA0] = none := by decide

/-! ## One cycle of each operation: the examples of R110 to R130 and R142 to R145 -/

theorem test_reset_overrides_transfer :
    seen (exec .reset (inReset (inSlot 10 true 0x0E83))) = some ([], 0xE295, false, 0) := by decide
theorem test_accept :
    exec .accept accepting =
      .next { accepting with st := .run, pitch_q := 0x41200000, roll_q := 0xC0A00000 } ∧
    ({ accepting with st := .run } : State).tx_data = some 0xA1 := by
  constructor <;> rfl
theorem test_idleWait : seen (exec .idleWait idle) = some ([], 0xE295, false, 0) := by decide
theorem test_stall_holds_head :
    seen (exec .stall (stalled (inSlot 10 false 0x4D22))) = some ([], 0x4D22, false, 10) ∧
    (stalled (inSlot 10 false 0x4D22)).tx_data = some 0xA0 := by decide
theorem test_xfer_head_then_tail :
    seen (exec .xfer (inSlot 11 false 0x0E83)) = some ([0xA0], 0xBB82, true, 11) ∧
    seen (exec .xfer (inSlot 11 true 0xBB82)) = some ([0x20], 0xBB82, false, 12) := by decide
theorem test_emitRawSom :
    seen (exec .emitRawSom (inSlot 0 false 0xE295)) = some ([0xA1], 0xE295, false, 1) := by decide
theorem test_emitScLen :
    seen (exec .emitScLen (inSlot 1 false 0xE295)) = some ([0x13], 0x6A3E, false, 2) := by decide
theorem test_emitScLen_escaped :
    seen (exec .emitScLen { inSlot 1 false 0xE295 with cfg := tcB }) = some ([0xA0], 0x569C, true, 1) := by decide
theorem test_emitScCmd :
    seen (exec .emitScCmd (inSlot 2 false 0x6A3E)) = some ([0x01], 0xE3CD, false, 3) := by decide
theorem test_emitScFlag :
    seen (exec .emitScFlag (inSlot 3 false 0xE3CD)) = some ([0x02], 0x200F, false, 4) := by decide
theorem test_emitScPb0 :
    seen (exec .emitScPb0 (inSlot 4 false 0x200F)) = some ([0x00], 0x2B62, false, 5) := by decide
theorem test_emitScPb0_big_endian :
    seen (exec .emitScPb0 { inSlot 4 false 0x200F with cfg := tcBE }) = some ([0x41], 0x7387, false, 5) := by decide
theorem test_emitScPb1 :
    seen (exec .emitScPb1 (inSlot 5 false 0x2B62)) = some ([0x00], 0xF709, false, 6) := by decide
theorem test_emitScPb2 :
    seen (exec .emitScPb2 (inSlot 6 false 0xF709)) = some ([0x20], 0xB29A, false, 7) := by decide
theorem test_emitScPb3 :
    seen (exec .emitScPb3 (inSlot 7 false 0xB29A)) = some ([0x41], 0x457C, false, 8) := by decide
theorem test_emitScRb0 :
    seen (exec .emitScRb0 (inSlot 8 false 0x457C)) = some ([0x00], 0x6461, false, 9) := by decide
theorem test_emitScRb1 :
    seen (exec .emitScRb1 (inSlot 9 false 0x6461)) = some ([0x00], 0x4D22, false, 10) := by decide
theorem test_emitScRb2_is_escape_value :
    seen (exec .emitScRb2 (inSlot 10 false 0x4D22)) = some ([0xA0], 0x0E83, true, 10) ∧
    seen (exec .emitScRb2 (inSlot 10 true 0x0E83)) = some ([0x00], 0x0E83, false, 11) := by decide
theorem test_emitScRb3 :
    seen (exec .emitScRb3 (inSlot 11 true 0xBB82)) = some ([0x20], 0xBB82, false, 12) := by decide
theorem test_emitScZero_first_and_last :
    seen (exec .emitScZero (inSlot 12 false 0xBB82)) = some ([0x00], 0x94B0, false, 13) ∧
    seen (exec .emitScZero (inSlot 15 false 0x73F4)) = some ([0x00], 0xBAF4, false, 16) := by decide
theorem test_emitSCk0_not_checksummed :
    seen (exec .emitSCk0 (inSlot 16 false 0xBAF4)) = some ([0xA0], 0xBAF4, true, 16) ∧
    seen (exec .emitSCk0 (inSlot 16 true 0xBAF4)) = some ([0x54], 0xBAF4, false, 17) := by decide
theorem test_emitSCk1 :
    seen (exec .emitSCk1 (inSlot 17 true 0xBAF4)) = some ([0x1A], 0xBAF4, false, 18) := by decide
theorem test_emitRawEom_ends_the_frame :
    exec .emitRawEom (inSlot 18 false 0xBAF4) =
      .next { inSlot 18 false 0xBAF4 with
        st := .idle, slot := 0, wire := [{ data := 0xA2, sof := false, last := true }] } := by rfl
theorem test_rawemit :
    seen (exec .rawemit (inSlot 0 false 0xE295)) = some ([0xA1], 0xE295, false, 1) := by decide
theorem test_pass :
    seen (exec .pass (inSlot 7 false 0xB29A)) = some ([0x41], 0xB29A, false, 8) := by decide
theorem test_head :
    seen (exec .head (inSlot 11 false 0x0E83)) = some ([0xA0], 0x0E83, true, 11) := by decide
theorem test_tail :
    seen (exec .tail (inSlot 11 true 0xBB82)) = some ([0x20], 0xBB82, false, 12) := by decide
theorem test_crcRst :
    seen (exec .crcRst (inReset (inSlot 5 false 0x2B62))) = some ([], 0xE295, false, 5) := by decide
theorem test_crcInit :
    seen (exec .crcInit { accepting with crc := 0xBAF4 }) = some ([], 0xE295, false, 0) := by decide
theorem test_crcUpd_takes_the_logical_byte :
    seen (exec .crcUpd (inSlot 10 false 0x4D22)) = some ([], 0x0E83, false, 10) := by decide
theorem test_crcHold_at_tail :
    seen (exec .crcHold (inSlot 10 true 0x0E83)) = some ([], 0x0E83, true, 10) := by decide
theorem test_step_runs_the_event :
    seen (step (inSlot 1 false 0xE295)) = some ([0x13], 0x6A3E, false, 2) := by decide
theorem test_unselected_refused :
    refusal (exec .stall idle) = some .notSelected ∧
    refusal (exec .emitScCmd (inSlot 1 false 0xE295)) = some .notSelected := by decide
theorem test_states_outside_r23_refused :
    refusal (step { idle with slot := 3 }) = some .idlePosition ∧
    refusal (step (inSlot 19 false 0)) = some (.reserved .reservedSlot) ∧
    refusal (step (inSlot 0 true 0)) = some (.reserved .reservedStuffing) ∧
    refusal (step (inSlot 12 true 0)) = some (.reserved .reservedStuffing) := by decide

/-! ## Witnesses: concrete states and operands that meet all hypotheses of a statement -/

/-- Every slot of a frame has a transfer cycle in position: the clauses of the slot statements, each at its slot. -/
theorem witness_slots :
    ∀ k : Slot, k.toNat ≤ 18 →
      (inSlot k false 0xBAF4).InPosition ∧ Transfers (inSlot k false 0xBAF4) ∧ (inSlot k false 0xBAF4).slot = k := by
  intro k hk
  have h : ∀ k : Slot, k.toNat ≤ 18 → (inSlot k false 0xBAF4).positionRefusal = none := by decide
  exact ⟨pos (h k hk), ⟨rfl, rfl, rfl⟩, rfl⟩

theorem witness_DecoderAcceptsExactlyTheTable :
    Instr.stall.encoding.format = .ev ∧ (6 : Byte).toNat < 2 ^ Format.ev.width ∧
      (6 : Byte) &&& Instr.stall.encoding.mask = Instr.stall.encoding.value := by decide
theorem witness_StepRunsTheDecodedEvent :
    (inReset idle).ports.rst = true ∧ (inSlot 4 false 0).InPosition := ⟨rfl, pos (by decide)⟩
theorem witness_PlacedTableWordRunsNext : idle.InPosition ∧ decodeTableWord 8 0x31 = some .emitScLen :=
  ⟨pos (by decide), by decide⟩
theorem witness_ResetTakesEveryResetValue : (inReset (inSlot 10 true 0x0E83)).ports.rst = true := rfl
theorem witness_AcceptCapturesTheSample :
    accepting.InPosition ∧ accepting.st = .idle ∧ accepting.ports.rst = false ∧
      accepting.ports.smp_valid = true := ⟨pos (by decide), rfl, rfl, rfl⟩
theorem witness_IdleWaitChangesNothing :
    idle.InPosition ∧ idle.st = .idle ∧ idle.ports.rst = false ∧ idle.ports.smp_valid = false :=
  ⟨pos (by decide), rfl, rfl, rfl⟩
theorem witness_StallChangesNothing :
    (stalled (inSlot 10 true 0x0E83)).InPosition ∧ Stalls (stalled (inSlot 10 true 0x0E83)) :=
  ⟨pos (by decide), rfl, rfl, rfl⟩
theorem witness_XferTransfersOneByte :
    (inSlot 11 false 0x0E83).InPosition ∧ Transfers (inSlot 11 false 0x0E83) ∧
      slotRom (inSlot 11 false 0x0E83).slot = .ok 0x3B ∧ (inSlot 11 false 0x0E83).tx_data = some 0xA0 :=
  ⟨pos (by decide), ⟨rfl, rfl, rfl⟩, rfl, by decide⟩
theorem witness_MarkerSlotsEmitRawMarkers :
    (inSlot 0 false 0).InPosition ∧ Transfers (inSlot 0 false 0) ∧ (inSlot 0 false 0).slot = 0 ∧
    (inSlot 18 false 0).InPosition ∧ Transfers (inSlot 18 false 0) ∧ (inSlot 18 false 0).slot = 18 :=
  ⟨pos (by decide), ⟨rfl, rfl, rfl⟩, rfl, pos (by decide), ⟨rfl, rfl, rfl⟩, rfl⟩
theorem witness_HeaderSlotsEmitConstants :
    ∀ k ∈ ([1, 2, 3] : List Slot), (inSlot k false 0).InPosition ∧ Transfers (inSlot k false 0) := by
  intro k hk
  have h : ∀ k ∈ ([1, 2, 3] : List Slot), (inSlot k false 0).positionRefusal = none := by decide
  exact ⟨pos (h k hk), rfl, rfl, rfl⟩
theorem witness_PitchSlotsEmitPitchBytes :
    ∀ k ∈ ([4, 5, 6, 7] : List Slot), (inSlot k false 0).InPosition ∧ Transfers (inSlot k false 0) := by
  intro k hk
  have h : ∀ k ∈ ([4, 5, 6, 7] : List Slot), (inSlot k false 0).positionRefusal = none := by decide
  exact ⟨pos (h k hk), rfl, rfl, rfl⟩
/-- Slots 8 and 9 with no tail, 10 and 11 at their tail. -/
theorem witness_RollSlotsEmitRollBytes :
    ∀ x ∈ ([(8, false), (9, false), (10, true), (11, true)] : List (Slot × Bool)),
      (inSlot x.1 x.2 0).InPosition ∧ Transfers (inSlot x.1 x.2 0) := by
  intro x hx
  have h : ∀ x ∈ ([(8, false), (9, false), (10, true), (11, true)] : List (Slot × Bool)),
      (inSlot x.1 x.2 0).positionRefusal = none := by decide
  exact ⟨pos (h x hx), rfl, rfl, rfl⟩
theorem witness_ZeroSlotsEmitZero :
    ∀ k ∈ ([12, 15] : List Slot), (inSlot k false 0).InPosition ∧ Transfers (inSlot k false 0) ∧
      12 ≤ (inSlot k false 0).slot.toNat ∧ (inSlot k false 0).slot.toNat ≤ 15 := by
  intro k hk
  have h : ∀ k ∈ ([12, 15] : List Slot), (inSlot k false 0).positionRefusal = none ∧
      12 ≤ (inSlot k false 0).slot.toNat ∧ (inSlot k false 0).slot.toNat ≤ 15 := by decide
  exact ⟨pos (h k hk).1, ⟨rfl, rfl, rfl⟩, (h k hk).2⟩
theorem witness_ChecksumSlotsEmitChecksum :
    (inSlot 16 true 0xBAF4).InPosition ∧ Transfers (inSlot 16 true 0xBAF4) ∧
    (inSlot 17 false 0xBAF4).InPosition ∧ Transfers (inSlot 17 false 0xBAF4) :=
  ⟨pos (by decide), ⟨rfl, rfl, rfl⟩, pos (by decide), rfl, rfl, rfl⟩
/-- With the consumer not ready, and with rst = 1. -/
theorem witness_SlotOperationsHoldWithoutTransfer :
    (stalled (inSlot 4 false 0)).InPosition ∧ (stalled (inSlot 4 false 0)).st = .run ∧
    (stalled (inSlot 4 false 0)).ports.tx_ready = false ∧ (inReset (inSlot 4 false 0)).InPosition ∧
    (inReset (inSlot 4 false 0)).ports.rst = true ∧ slotRom 4 = .ok 0x34 ∧ decodeCtl 0x34 = .ok .scPb0 ∧
    decodeStfBits (ctlStuffEn 0x34) false
      (decide ((inSlot 4 false 0).esc ≤ (inSlot 4 false 0).logicalByte 0x34)) = .ok .pass :=
  ⟨pos (by decide), rfl, rfl, pos (by decide), rfl, rfl, rfl, by decide⟩
theorem witness_PassDeliversTheByte :
    (inSlot 7 false 0).InPosition ∧ Transfers (inSlot 7 false 0) ∧ slotRom 7 = .ok 0x37 ∧
    ctlStuffEn 0x37 = true ∧ (inSlot 7 false 0).logicalByte 0x37 < (inSlot 7 false 0).esc :=
  ⟨pos (by decide), ⟨rfl, rfl, rfl⟩, rfl, rfl, by decide⟩
/-- The boundary v = P_ESC. -/
theorem witness_HeadDeliversEscape :
    (inSlot 10 false 0).InPosition ∧ Transfers (inSlot 10 false 0) ∧ slotRom 10 = .ok 0x3A ∧
    ctlStuffEn 0x3A = true ∧ (inSlot 10 false 0).logicalByte 0x3A = (inSlot 10 false 0).esc :=
  ⟨pos (by decide), ⟨rfl, rfl, rfl⟩, rfl, rfl, by decide⟩
theorem witness_TailDeliversDifference :
    (inSlot 10 true 0).InPosition ∧ Transfers (inSlot 10 true 0) ∧ slotRom 10 = .ok 0x3A ∧
    (inSlot 10 true 0).tail = true := ⟨pos (by decide), ⟨rfl, rfl, rfl⟩, rfl, rfl⟩
theorem witness_RawemitDeliversTheMarker :
    (inSlot 0 false 0).InPosition ∧ Transfers (inSlot 0 false 0) ∧ (inSlot 18 false 0).InPosition ∧
    Transfers (inSlot 18 false 0) := ⟨pos (by decide), ⟨rfl, rfl, rfl⟩, pos (by decide), rfl, rfl, rfl⟩
theorem witness_ChecksumIsInitialised :
    (inReset (inSlot 5 false 0)).ports.rst = true ∧ accepting.InPosition ∧ accepting.ports.rst = false ∧
    accepting.st = .idle ∧ accepting.ports.smp_valid = true := ⟨rfl, pos (by decide), rfl, rfl, rfl⟩
/-- Slots 1 and 15. -/
theorem witness_ChecksumAbsorbsCoveredBytesOnce :
    (inSlot 1 false 0).InPosition ∧ Transfers (inSlot 1 false 0) ∧ slotRom 1 = .ok 0x31 ∧
    (inSlot 15 false 0).InPosition ∧ Transfers (inSlot 15 false 0) ∧ slotRom 15 = .ok 0x3C :=
  ⟨pos (by decide), ⟨rfl, rfl, rfl⟩, rfl, pos (by decide), ⟨rfl, rfl, rfl⟩, rfl⟩
/-- A tail transfer, and a transfer in slot 16. -/
theorem witness_ChecksumHoldsOtherwise :
    (inSlot 10 true 0).InPosition ∧ (inSlot 10 true 0).ports.rst = false ∧
    ¬ (Transfers (inSlot 10 true 0) ∧ (inSlot 10 true 0).tail = false ∧
        1 ≤ (inSlot 10 true 0).slot.toNat ∧ (inSlot 10 true 0).slot.toNat ≤ 15) ∧
    ¬ (Transfers (inSlot 16 false 0) ∧ (inSlot 16 false 0).tail = false ∧
        1 ≤ (inSlot 16 false 0).slot.toNat ∧ (inSlot 16 false 0).slot.toNat ≤ 15) ∧
    ¬ ((inSlot 10 true 0).st = .idle ∧ (inSlot 10 true 0).ports.smp_valid = true) := by
  refine ⟨pos (by decide), rfl, fun h => ?_, fun h => ?_, by decide⟩
  · exact absurd h.2.1 (by decide)
  · exact absurd h.2.2.2 (by decide)
theorem witness_OutputsAreMooreOutputs :
    idle.InPosition ∧ idle.st = .idle ∧ (inSlot 10 true 0).InPosition ∧ (inSlot 10 true 0).st = .run ∧
    slotRom 10 = .ok 0x3A := ⟨pos (by decide), rfl, pos (by decide), rfl, rfl⟩
theorem witness_StalledOutputsAreStable :
    (stalled (inSlot 18 false 0)).InPosition ∧ Stalls (stalled (inSlot 18 false 0)) :=
  ⟨pos (by decide), rfl, rfl, rfl⟩
/-- A cycle without and a cycle with a transfer. -/
theorem witness_OnlyTransfersDeliver :
    (∃ t, step idle = .next t) ∧ idle.isTransfer = false ∧
    (∃ t, step (inSlot 1 false 0xE295) = .next t) ∧ (inSlot 1 false 0xE295).isTransfer = true :=
  ⟨⟨_, rfl⟩, rfl, ⟨_, rfl⟩, rfl⟩
theorem witness_OperationsKeepParametersAndSample : ∃ t, exec .emitScLen (inSlot 1 false 0xE295) = .next t :=
  ⟨_, rfl⟩
theorem witness_OperationsDeliverAtMostOneByte :
    (∃ t, exec .head (inSlot 10 false 0) = .next t) ∧ (∃ t, exec .crcHold idle = .next t) :=
  ⟨⟨_, rfl⟩, ⟨_, rfl⟩⟩
theorem witness_TransferIsStuffingAndChecksum :
    (inSlot 16 true 0xBAF4).InPosition ∧ Transfers (inSlot 16 true 0xBAF4) ∧ slotRom 16 = .ok 0x2D :=
  ⟨pos (by decide), ⟨rfl, rfl, rfl⟩, rfl⟩
/-- States on both sides of the condition. -/
theorem witness_StepCompletesExactlyInsideInvariant :
    (inSlot 18 false 0).InPosition ∧ ¬ ((inSlot 19 false 0).ports.rst = true ∨ (inSlot 19 false 0).InPosition) := by
  refine ⟨pos (by decide), ?_⟩
  rintro (h | h)
  · exact absurd h (by decide)
  · exact absurd h.slot_le (by decide)
theorem witness_UnselectedOperationsAreRefused :
    ¬ ((inSlot 19 false 0).ports.rst = true ∨ (inSlot 19 false 0).InPosition) ∧ idle.InPosition ∧
    idle.st = .idle ∧ decode .ev 0b0000 ≠ .ok EvOp.xfer.toInstr ∧ idle.selectCrc ≠ .ok .upd := by
  refine ⟨?_, pos (by decide), rfl, by decide, by decide⟩
  rintro (h | h)
  · exact absurd h (by decide)
  · exact absurd h.slot_le (by decide)
theorem witness_StepKeepsPosition : (inSlot 18 false 0).InPosition ∧ ∃ t, step (inSlot 18 false 0) = .next t :=
  ⟨pos (by decide), _, rfl⟩
theorem witness_ReachableStatesAreInPosition :
    (inReset (inSlot 10 true 0)).ports.rst = true ∧ ∃ t, Runs (0 + 1) (inReset (inSlot 10 true 0)) t :=
  ⟨rfl, _, rfl⟩
theorem witness_ResetIsSafe :
    (inReset (inSlot 19 true 0)).ports.rst = true ∧ ∃ t, step (inReset (inSlot 19 true 0)) = .next t :=
  ⟨rfl, _, rfl⟩
/-- Vector F1 after slots 1 to 10: the head of slot 10 is out. -/
theorem witness_StepKeepsChecksumInStep :
    (inSlot 10 true 0x0E83).Safe ∧ ∃ t, step (inSlot 10 true 0x0E83) = .next t :=
  ⟨⟨pos (by decide), fun _ => by decide⟩, _, rfl⟩
/-- Slots 16 and 18 of vector F1. -/
theorem witness_ChecksumIsFinalFromSlotSixteen :
    (inSlot 16 false 0xBAF4).Safe ∧ (inSlot 18 false 0xBAF4).Safe ∧ (inSlot 18 false 0xBAF4).st = .run ∧
    (inSlot 18 false 0xBAF4).ports.rst = false ∧ ∃ t, step (inSlot 18 false 0xBAF4) = .next t :=
  ⟨⟨pos (by decide), fun _ => by decide⟩, ⟨pos (by decide), fun _ => by decide⟩, rfl, rfl, _, rfl⟩
theorem witness_BusyIgnoresOfferedSample :
    (inSlot 3 false 0).st = .run ∧ (inSlot 3 false 0).ports.rst = false := ⟨rfl, rfl⟩
theorem witness_IdleIgnoresReady : idle.st = .idle := rfl
/-- Two accepts of one sample from different histories. -/
theorem witness_NoHistoryAcrossFrames :
    accepting.InPosition ∧ ({ accepting with crc := 0xBAF4, pitch_q := 1 } : State).InPosition ∧
    accepting.isAccept = true ∧ (∃ t, step accepting = .next t) ∧
    ∃ t, step { accepting with crc := 0xBAF4, pitch_q := 1 } = .next t :=
  ⟨pos (by decide), pos (by decide), rfl, ⟨_, rfl⟩, _, rfl⟩
theorem witness_StallMayLastForever :
    (stalled (inSlot 3 false 0)).InPosition ∧ Stalls (stalled (inSlot 3 false 0)) ∧
    (stalled (inSlot 3 false 0)).stimulus = [quietPorts] ++ [] ∧
    ∀ p ∈ [quietPorts], p.rst = false ∧ p.tx_ready = false :=
  ⟨pos (by decide), ⟨rfl, rfl, rfl⟩, rfl, by decide⟩
theorem witness_NothingIsSentWithoutAccept :
    idle.InPosition ∧ idle.st = .idle ∧ idle.ports.rst = false ∧ idle.ports.smp_valid = false ∧
    idle.stimulus = [quietPorts] ++ [] ∧ ∀ p ∈ [quietPorts], p.rst = false ∧ p.smp_valid = false :=
  ⟨pos (by decide), rfl, rfl, rfl, rfl, by decide⟩
/-- Vector F1, at an escape head in the middle of the frame. -/
theorem witness_NoMarkerInsideFrame :
    stuffAll tcA.params (interiorBytes tcA.params 0x41200000 0xC0A00000) =
      [0x13, 0x01, 0x02, 0x00, 0x00, 0x20, 0x41, 0x00, 0x00] ++ 0xA0 ::
        [0x00, 0xA0, 0x20, 0x00, 0x00, 0x00, 0x00, 0xA0, 0x54, 0xA0, 0x1A] := by decide
/-- Vector F1 (W = 23): no cycle yet, the last cycle before the end, and the whole frame with a stall before its last byte. -/
theorem witness_AcceptedSampleBecomesItsFrame :
    let before := List.replicate 22 ready ++ [quietPorts]
    let s : State := { accepting with stimulus := before ++ [ready] }
    s.InPosition ∧ s.isAccept = true ∧ (∀ p ∈ before ++ [ready], p.rst = false) ∧
    readyCycles [] < (wireFrame s.cfg.params s.ports.smp_pitch s.ports.smp_roll).length ∧
    readyCycles before < (wireFrame s.cfg.params s.ports.smp_pitch s.ports.smp_roll).length ∧
    ready.tx_ready = true ∧
    readyCycles (before ++ [ready]) = (wireFrame s.cfg.params s.ports.smp_pitch s.ports.smp_roll).length := by
  refine ⟨pos (by decide), rfl, by decide, by decide, by decide, rfl, by decide⟩
theorem witness_FullThroughputTiming :
    let ins := List.replicate 23 ready
    let s : State := { accepting with stimulus := ins }
    s.InPosition ∧ s.isAccept = true ∧ (∀ p ∈ ins, p.rst = false ∧ p.tx_ready = true) ∧
    ins.length = (wireFrame s.cfg.params s.ports.smp_pitch s.ports.smp_roll).length := by
  refine ⟨pos (by decide), rfl, by decide, by decide⟩
theorem witness_ResetTruncatesTheFrame :
    let ins := List.replicate 22 ready
    let r : Ports := { quietPorts with rst := true }
    let s : State := { accepting with stimulus := ins ++ [r] }
    s.InPosition ∧ s.isAccept = true ∧ (∀ p ∈ ins, p.rst = false) ∧ r.rst = true ∧
    readyCycles ins < (wireFrame s.cfg.params s.ports.smp_pitch s.ports.smp_roll).length := by
  refine ⟨pos (by decide), rfl, by decide, rfl, by decide⟩

end Sys2Proof.Tests
end

/-! SUPPORT. What an operation can do, once per format and then for all 29: the inversion lemmas of `exec`. -/

namespace Sys2Proof.Machine

/-- The match value of a row decodes to the row (R70, R74, R76, R77). -/
theorem decode_encoding_value (i : Instr) : decode i.encoding.format i.encoding.value = .ok i := by
  cases i <;> rfl

/-- Whatever the decoder answers is an operation of one of the four formats. -/
theorem decode_ok_format {f : Format} {w : Byte} {i : Instr} (h : decode f w = .ok i) :
    (∃ op : EvOp, i = op.toInstr) ∨ (∃ op : CtlOp, i = op.toInstr) ∨
    (∃ op : StfOp, i = op.toInstr) ∨ (∃ op : CrcOp, i = op.toInstr) := by
  have of_map {α : Type} {d : Except DecodeError α} {g : α → Instr} (hd : d.map g = .ok i) :
      ∃ op, i = g op := by
    cases d with
    | error e => cases hd
    | ok op => cases hd; exact ⟨op, rfl⟩
  unfold decode at h
  split at h
  next =>
    cases f with
    | ev => cases h; exact .inl ⟨_, rfl⟩
    | ctl => exact .inr (.inl (of_map h))
    | stf => exact .inr (.inr (.inl (of_map h)))
    | crcv => exact .inr (.inr (.inr (of_map h)))
  next => cases h

/-- Every operation is an event, a slot micro-operation, a stuffing operation or a checksum action. -/
theorem instr_cases_format (i : Instr) :
    (∃ op : EvOp, i = op.toInstr) ∨ (∃ op : CtlOp, i = op.toInstr) ∨
    (∃ op : StfOp, i = op.toInstr) ∨ (∃ op : CrcOp, i = op.toInstr) :=
  decode_ok_format (decode_encoding_value i)

/-! ## One inversion lemma per format -/

/-- A checksum action completes exactly when it is selected, and changes crc alone (log entry 14). -/
theorem exec_crc_next_iff {k : CrcOp} {s t : State} :
    exec k.toInstr s = .next t ↔
      s.selectCrc = .ok k ∧ t = { s with crc := crcNext k s.cfg.params s.slotByte s.crc } := by
  rw [exec_crc_eq, runSelected_next_iff, Host.Outcome.next.injEq, eq_comm (b := t)]

/-- A stuffing operation leaves the state alone or, at a transfer, performs its stuffing action (R142 to R145). -/
theorem exec_stf_next {a : StfOp} {s t : State} (h : exec a.toInstr s = .next t) :
    s.selectStf = .ok a ∧
      (t = s ∨ (s.isTransfer = true ∧ t = s.stuffTransfer a s.slotByte)) := by
  rw [exec_stf_eq, runSelected_next_iff] at h
  obtain ⟨hsel, hcycle⟩ := h
  refine ⟨hsel, ?_⟩
  unfold State.stuffCycle at hcycle
  split at hcycle
  next ht => cases hcycle; exact .inr ⟨ht, rfl⟩
  next => cases hcycle; exact .inl rfl

/-- A slot micro-operation leaves the state alone or, at a transfer, performs a stuffing and a checksum action (R115 to R130). -/
theorem exec_ctl_next {op : CtlOp} {s t : State} (h : exec op.toInstr s = .next t) :
    s.selectCtl = .ok op ∧
      (t = s ∨ (s.isTransfer = true ∧ ∃ a v k,
        t = { s.stuffTransfer a v with crc := crcNext k s.cfg.params v s.crc })) := by
  obtain ⟨cls, v, heq⟩ := runSlotOp_eq op s
  rw [exec_ctl, heq, runSelected_next_iff] at h
  obtain ⟨hsel, hemit⟩ := h
  refine ⟨hsel, ?_⟩
  obtain rfl | ⟨ht, a, k, -, -, rfl⟩ := emitSlot_next hemit
  · exact .inl rfl
  · exact .inr ⟨ht, a, v, k, rfl⟩

/-- XFER is the micro-operation that the slot ROM selects (R113). -/
theorem exec_xfer_next {s t : State} (h : exec .xfer s = .next t) :
    s.selectEv = .ok .xfer ∧ ∃ op : CtlOp, exec op.toInstr s = .next t := by
  obtain ⟨hsel, hslot⟩ := runSelected_next_iff.1 h
  refine ⟨hsel, ?_⟩
  cases hctl : s.selectCtl with
  | error r => simp [hctl] at hslot
  | ok op => exact ⟨op, by simpa [hctl, exec_ctl] using hslot⟩

/-- A cycle event is selected when it completes, and resets, captures, leaves the state alone or runs a slot micro-operation (R109). -/
theorem exec_ev_next {e : EvOp} {s t : State} (h : exec e.toInstr s = .next t) :
    s.selectEv = .ok e ∧
      ((e = .reset ∧ t = s.resetElements) ∨
       (e = .accept ∧ t = s.capture s.ports.smp_pitch s.ports.smp_roll) ∨
       ((e = .idleWait ∨ e = .stall) ∧ t = s) ∨
       (e = .xfer ∧ ∃ op : CtlOp, exec op.toInstr s = .next t)) := by
  cases e
  case reset =>
    obtain ⟨hsel, ht⟩ := runSelected_next_iff.1 h
    exact ⟨hsel, .inl ⟨rfl, (Host.Outcome.next.inj ht).symm⟩⟩
  case accept =>
    obtain ⟨hsel, ht⟩ := runSelected_next_iff.1 h
    exact ⟨hsel, .inr (.inl ⟨rfl, (Host.Outcome.next.inj ht).symm⟩)⟩
  case idleWait =>
    obtain ⟨hsel, ht⟩ := runSelected_next_iff.1 h
    exact ⟨hsel, .inr (.inr (.inl ⟨.inl rfl, (Host.Outcome.next.inj ht).symm⟩))⟩
  case stall =>
    obtain ⟨hsel, ht⟩ := runSelected_next_iff.1 h
    exact ⟨hsel, .inr (.inr (.inl ⟨.inr rfl, (Host.Outcome.next.inj ht).symm⟩))⟩
  case xfer =>
    obtain ⟨hsel, hop⟩ := exec_xfer_next h
    exact ⟨hsel, .inr (.inr (.inr ⟨rfl, hop⟩))⟩

/-! ## All operations -/

/-- Everything an operation can do: reset the elements, capture the sample, change crc at most, or, at a transfer, perform one stuffing
action with a new crc. -/
theorem exec_next_cases {i : Instr} {s t : State} (h : exec i s = .next t) :
    (i = .reset ∧ t = s.resetElements) ∨
    (i = .accept ∧ t = s.capture s.ports.smp_pitch s.ports.smp_roll) ∨
    (∃ c, t = { s with crc := c }) ∨
    (s.isTransfer = true ∧ ∃ a v c, t = { s.stuffTransfer a v with crc := c }) := by
  have of_ctl {op : CtlOp} (hop : exec op.toInstr s = .next t) :
      (∃ c, t = { s with crc := c }) ∨
      (s.isTransfer = true ∧ ∃ a v c, t = { s.stuffTransfer a v with crc := c }) := by
    obtain ⟨-, rfl | ⟨ht, a, v, k, rfl⟩⟩ := exec_ctl_next hop
    · exact .inl ⟨_, rfl⟩
    · exact .inr ⟨ht, a, v, _, rfl⟩
  obtain ⟨e, rfl⟩ | ⟨op, rfl⟩ | ⟨a, rfl⟩ | ⟨k, rfl⟩ := instr_cases_format i
  · obtain ⟨-, ⟨rfl, rfl⟩ | ⟨rfl, rfl⟩ | ⟨-, rfl⟩ | ⟨-, op, hop⟩⟩ := exec_ev_next h
    · exact .inl ⟨rfl, rfl⟩
    · exact .inr (.inl ⟨rfl, rfl⟩)
    · exact .inr (.inr (.inl ⟨_, rfl⟩))
    · exact .inr (.inr (of_ctl hop))
  · exact .inr (.inr (of_ctl h))
  · obtain ⟨-, rfl | ⟨ht, rfl⟩⟩ := exec_stf_next h
    · exact .inr (.inr (.inl ⟨_, rfl⟩))
    · exact .inr (.inr (.inr ⟨ht, a, _, _, rfl⟩))
  · obtain ⟨-, rfl⟩ := exec_crc_next_iff.1 h
    exact .inr (.inr (.inl ⟨_, rfl⟩))

end Sys2Proof.Machine

/-! The frame of the operations (00_scope.md R6, 10_state.md R20, R31). -/

namespace Sys2Proof.Proofs

open Sys2Proof Sys2Proof.Machine

/-- Settles O32: of everything an operation can do (`exec_next_cases`), only RESET and ACCEPT write the sample registers, and nothing writes
the parameters or the environment's inputs. -/
theorem operationsKeepParametersAndSample : Obligations.OperationsKeepParametersAndSample := by
  intro i s t h
  obtain ⟨rfl, rfl⟩ | ⟨rfl, rfl⟩ | ⟨c, rfl⟩ | ⟨-, a, v, c, rfl⟩ := exec_next_cases h
  · exact ⟨rfl, rfl, rfl, rfl, fun _ hne => absurd rfl hne⟩
  · exact ⟨rfl, rfl, rfl, rfl, fun hne => absurd rfl hne⟩
  · exact ⟨rfl, rfl, rfl, rfl, fun _ _ => ⟨rfl, rfl⟩⟩
  · simp

end Sys2Proof.Proofs

/-! SUPPORT. The sequencer's position, field by field: what a stuffing action does to st, slot and tail, which slots' logical bytes read
crc, and which states are in position (10_state.md R23). -/

namespace Sys2Proof.Machine

/-! ## Handshakes -/

/-- The accept handshake of R24 in the fields of the state. -/
theorem isAccept_iff {s : State} :
    s.isAccept = true ↔ s.st = .idle ∧ s.ports.rst = false ∧ s.ports.smp_valid = true := by
  cases hs : s.st <;> simp [State.isAccept, State.smp_ready, hs, St.isRun]

/-- The transfer handshake of R25 in the fields of the state. -/
theorem isTransfer_iff {s : State} : s.isTransfer = true ↔ Transfers s := by
  cases hs : s.st <;> simp [State.isTransfer, State.tx_valid, Transfers, hs, St.isRun]

/-! ## The stuffing decision and its action -/

/-- The four rows of R76: which operation is decoded, and from which fields. -/
theorem decodeStfBits_ok_cases {stuffEn tail ge : Bool} {a : StfOp}
    (h : decodeStfBits stuffEn tail ge = .ok a) :
    (a = .rawemit ∧ stuffEn = false ∧ tail = false) ∨
    (a = .pass ∧ stuffEn = true ∧ tail = false ∧ ge = false) ∨
    (a = .head ∧ stuffEn = true ∧ tail = false ∧ ge = true) ∨
    (a = .tail ∧ stuffEn = true ∧ tail = true ∧ ge = true) := by
  revert h
  cases a <;> revert stuffEn tail ge <;> decide

/-- HEAD leaves a tail pending, and every other stuffing action leaves none (R142 to R145). -/
@[simp] theorem stuffTransfer_pending (s : State) (a : StfOp) (v : Byte) :
    (s.stuffTransfer a v).tail = decide (a = .head) := by
  cases a <;> simp [State.stuffTransfer]

/-- HEAD stays in its slot, and every other stuffing action advances (R142 to R145, R114). -/
@[simp] theorem stuffTransfer_slot (s : State) (a : StfOp) (v : Byte) :
    (s.stuffTransfer a v).slot = if a = .head then s.slot else s.advance.slot := by
  cases a <;> simp [State.stuffTransfer]

@[simp] theorem stuffTransfer_st (s : State) (a : StfOp) (v : Byte) :
    (s.stuffTransfer a v).st = if a = .head then s.st else s.advance.st := by
  cases a <;> simp [State.stuffTransfer]

/-! ## Which logical bytes read the checksum -/

/-- A covered slot takes its byte from neither checksum source (R74, R160). -/
theorem ctlSrc_of_covered {k : Slot} {c : BitVec 6} (hc : slotRom k = .ok c)
    (hcov : ctlCrcEn c = true) : (ctlSrc c).toNat ≠ 0xD ∧ (ctlSrc c).toNat ≠ 0xE := by
  have h : ∀ k : Slot, (match slotRom k with
      | .ok c => !ctlCrcEn c || ((ctlSrc c).toNat != 0xD && (ctlSrc c).toNat != 0xE)
      | .error _ => true) = true := by decide
  have hk := h k
  rw [hc] at hk
  simpa [hcov] using hk

/-- Only the two checksum sources read crc (R73). -/
theorem sourceByte_with_crc (s : State) {src : BitVec 4} (x : Half)
    (h : src.toNat ≠ 0xD ∧ src.toNat ≠ 0xE) :
    ({ s with crc := x } : State).sourceByte src = s.sourceByte src := by
  obtain ⟨hD, hE⟩ := h
  unfold State.sourceByte
  split
  case h_14 heq => exact absurd heq hD
  case h_15 heq => exact absurd heq hE
  all_goals rfl

/-- The logical byte of a covered slot does not depend on the checksum that absorbs it. -/
theorem logicalByte_of_covered (s : State) {c : BitVec 6} (x : Half) (hc : slotRom s.slot = .ok c)
    (hcov : ctlCrcEn c = true) : ({ s with crc := x } : State).logicalByte c = s.logicalByte c :=
  sourceByte_with_crc s x (ctlSrc_of_covered hc hcov)

/-! ## States in position -/

/-- With no tail pending, R23 is a matter of st and slot alone. -/
theorem inPosition_of_tail_false {s : State} (hidle : s.st = .idle → s.slot = 0)
    (hslot : s.slot.toNat ≤ 18) (htail : s.tail = false) : s.InPosition where
  idle_at_start h := ⟨hidle h, htail⟩
  slot_le := hslot
  tail_escaped h := by simp [htail] at h

theorem resetElements_inPosition (s : State) : s.resetElements.InPosition :=
  inPosition_of_tail_false (fun _ => rfl) (by simp) rfl

theorem capture_inPosition (s : State) (p r : Word) : (s.capture p r).InPosition :=
  inPosition_of_tail_false (fun _ => rfl) (by simp) rfl

/-- ADVANCE leads from a slot of a frame in flight to the next slot, or from the last to IDLE at slot 0 (R114). -/
theorem advance_in_range {s : State} (hs : s.st = .run) (hslot : s.slot.toNat ≤ 18) :
    (s.advance.st = .idle → s.advance.slot = 0) ∧ s.advance.slot.toNat ≤ 18 := by
  by_cases h18 : s.slot = 18
  · simp [h18]
  · obtain ⟨hsucc, hlt⟩ := slot_succ hslot h18
    simp only [advance_st, advance_slot, if_neg h18, hs, hsucc]
    exact ⟨nofun, by omega⟩

/-- HEAD keeps the position: the byte that made it an escape is still the slot's, since crc absorbs a byte only in the slots whose byte
does not read crc. -/
theorem head_inPosition {s : State} {c : BitVec 6} (hp : s.InPosition) (hs : s.st = .run)
    (hc : slotRom s.slot = .ok c) (hstuff : ctlStuffEn c = true)
    (hesc : s.esc ≤ s.logicalByte c) (x : Half) (hx : ctlCrcEn c = false → x = s.crc) :
    ({ s.stuffTransfer .head (s.logicalByte c) with crc := x } : State).InPosition where
  idle_at_start h := by simp [hs] at h
  slot_le := hp.slot_le
  tail_escaped _ := by
    refine ⟨c, hc, hstuff, ?_⟩
    have hbyte : ({ s with crc := x } : State).logicalByte c = s.logicalByte c := by
      cases hcov : ctlCrcEn c with
      | true => exact logicalByte_of_covered s x hc hcov
      | false => rw [hx hcov]
    exact hbyte ▸ hesc

/-- Every stuffing action but HEAD leads to the first wire byte of the next slot, or to IDLE. -/
theorem advancing_inPosition {s : State} {a : StfOp} (hp : s.InPosition) (hs : s.st = .run)
    (ha : a ≠ .head) (v : Byte) (x : Half) :
    ({ s.stuffTransfer a v with crc := x } : State).InPosition := by
  obtain ⟨hidle, hslot⟩ := advance_in_range hs hp.slot_le
  refine inPosition_of_tail_false ?_ ?_ ?_
  · simpa only [stuffTransfer_st, stuffTransfer_slot, if_neg ha] using hidle
  · simpa only [stuffTransfer_slot, if_neg ha] using hslot
  · simpa using ha

/-- The transfer of a byte keeps the position, whichever stuffing action is decoded. -/
theorem transfer_inPosition {s : State} {c : BitVec 6} {a : StfOp} (hp : s.InPosition)
    (hs : s.st = .run) (hc : slotRom s.slot = .ok c)
    (ha : decodeStfBits (ctlStuffEn c) s.tail (s.needsEscape (s.logicalByte c)) = .ok a)
    (x : Half) (hx : ctlCrcEn c = false → x = s.crc) :
    ({ s.stuffTransfer a (s.logicalByte c) with crc := x } : State).InPosition := by
  obtain ⟨rfl, -⟩ | ⟨rfl, -⟩ | ⟨rfl, hstuff, -, hge⟩ | ⟨rfl, -⟩ := decodeStfBits_ok_cases ha
  · exact advancing_inPosition hp hs (by decide) _ x
  · exact advancing_inPosition hp hs (by decide) _ x
  · exact head_inPosition hp hs hc hstuff (of_decide_eq_true hge) x hx
  · exact advancing_inPosition hp hs (by decide) _ x

/-- Every step keeps R23. -/
theorem step_inPosition {s t : State} (hp : s.InPosition) (h : step s = .next t) : t.InPosition := by
  obtain ⟨-, rfl⟩ | ⟨-, -, ⟨-, -, rfl⟩ | ⟨-, -, rfl⟩ | ⟨-, rfl⟩ | ⟨⟨hs, -⟩, c, a, hc, ha, rfl⟩⟩ :=
    step_cases h
  · exact nextCycle_inPosition.2 (resetElements_inPosition s)
  · exact nextCycle_inPosition.2 (capture_inPosition s _ _)
  · exact nextCycle_inPosition.2 hp
  · exact nextCycle_inPosition.2 hp
  · exact nextCycle_inPosition.2 (transfer_inPosition hp hs hc ha _ fun hcov => by simp [hcov])

/-- What every step keeps holds at the end of a run that starts with it. -/
theorem runs_invariant {P : State → Prop} (hstep : ∀ s t, P s → step s = .next t → P t)
    {n : Nat} {s t : State} (hs : P s) (h : Runs n s t) : P t := by
  induction n generalizing s with
  | zero => exact (runs_zero s t).1 h ▸ hs
  | succ n ih =>
    obtain ⟨u, hu, hrest⟩ := (runs_succ n s t).1 h
    exact ih (hstep s u hs hu) hrest

/-! ## Outputs -/

/-- tx_data of a frame in flight (R26). -/
theorem tx_data_of_run {s : State} {c : BitVec 6} (hs : s.st = .run) (hc : slotRom s.slot = .ok c) :
    s.tx_data = some
      (if ctlStuffEn c = false then s.logicalByte c
       else if s.tail = false then (if s.esc ≤ s.logicalByte c then s.esc else s.logicalByte c)
       else s.logicalByte c - s.esc) := by
  simp only [State.tx_data, hs, hc, State.needsEscape, decide_eq_true_eq]
  split
  · rfl
  · split <;> rfl

/-- In position, the outputs are the port functions of R26 around the presented byte. -/
theorem outputs_of_tx_data {s : State} {d : Byte} (hp : s.InPosition) (hd : s.tx_data = some d) :
    s.outputs = some
      { smp_ready := s.smp_ready, busy := s.st.isRun, tx_valid := s.tx_valid,
        tx_data := d, tx_sof := s.tx_sof, tx_last := s.tx_last } := by
  simp [State.outputs, hp.coherent, hd]

/-- The decoded stuffing action delivers the byte on tx_data (R142 to R145). -/
theorem stuffTransfer_delivers_tx_data {s : State} {c : BitVec 6} {a : StfOp} (hs : s.st = .run)
    (hc : slotRom s.slot = .ok c)
    (ha : decodeStfBits (ctlStuffEn c) s.tail (s.needsEscape (s.logicalByte c)) = .ok a) :
    ∃ d, s.tx_data = some d ∧ (s.stuffTransfer a (s.logicalByte c)).wire =
      s.wire ++ [{ data := d, sof := s.tx_sof, last := s.tx_last }] := by
  refine ⟨_, tx_data_of_run hs hc, ?_⟩
  obtain ⟨rfl, hstuff, -⟩ | ⟨rfl, hstuff, htail, hge⟩ | ⟨rfl, hstuff, htail, hge⟩ |
    ⟨rfl, hstuff, htail, -⟩ := decodeStfBits_ok_cases ha
  · simp [State.stuffTransfer, hstuff]
  · simp [State.stuffTransfer, hstuff, htail, of_decide_eq_false hge]
  · simp [State.stuffTransfer, hstuff, htail, of_decide_eq_true hge]
  · simp [State.stuffTransfer, hstuff, htail]

end Sys2Proof.Machine

/-! The state, its reachable positions and its outputs (10_state.md R23 to R27, R33). -/

namespace Sys2Proof.Proofs

open Sys2Proof Sys2Proof.Machine

/-- Settles O36: of the cases of `step_cases`, only HEAD leaves a tail pending, and its slot's byte stays at or above P_ESC although crc
may change in the same edge (`head_inPosition`). -/
theorem stepKeepsPosition : Obligations.StepKeepsPosition :=
  fun _ _ => step_inPosition

/-- Settles O37: the first cycle resets the position, and every later one keeps it (`runs_invariant`). -/
theorem reachableStatesAreInPosition : Obligations.ReachableStatesAreInPosition := by
  intro n s t hrst hrun
  obtain ⟨u, hu, hrest⟩ := (runs_succ n s t).1 hrun
  rw [step_reset hrst] at hu
  cases hu
  have hpos : s.resetElements.nextCycle.InPosition :=
    nextCycle_inPosition.2 (resetElements_inPosition s)
  exact runs_invariant (fun _ _ => step_inPosition) hpos hrest

/-- Settles O30: a stall is a step that changes the environment's inputs alone (`step_stall`), which no output reads. -/
theorem stalledOutputsAreStable : Obligations.StalledOutputsAreStable := by
  intro s hp hstall
  refine ⟨s.nextCycle, step_stall hp hstall, ?_⟩
  have hout : s.nextCycle.outputs = s.outputs :=
    (outputs_congr (by simp) (by simp) (by simp) (by simp) (by simp) (by simp) (by simp)).1
  have hvalid : s.nextCycle.tx_valid = true := by simp [State.tx_valid, hstall.1, St.isRun]
  simp [hout, hvalid]

/-- Settles O31: of the cases of `step_cases`, the transfer delivers what tx_data presents, and no other writes the wire stream. -/
theorem onlyTransfersDeliver : Obligations.OnlyTransfersDeliver := by
  intro s t h
  have of_quiet (hnot : ¬ Transfers s) (hwire : t.wire = s.wire) :
      (s.isTransfer = false → t.wire = s.wire) ∧ (s.isTransfer = true → ∃ o, s.outputs = some o ∧
        t.wire = s.wire ++ [{ data := o.tx_data, sof := o.tx_sof, last := o.tx_last }]) :=
    ⟨fun _ => hwire, fun ht => absurd (isTransfer_iff.1 ht) hnot⟩
  obtain ⟨hrst, rfl⟩ | ⟨-, hp, ⟨hs, -, rfl⟩ | ⟨hs, -, rfl⟩ | ⟨⟨-, -, hready⟩, rfl⟩ |
      ⟨ht, c, a, hc, ha, rfl⟩⟩ := step_cases h
  · exact of_quiet (by simp [Transfers, hrst]) (by simp)
  · exact of_quiet (by simp [Transfers, hs]) (by simp)
  · exact of_quiet (by simp [Transfers, hs]) (by simp)
  · exact of_quiet (by simp [Transfers, hready]) (by simp)
  · obtain ⟨d, hd, hwire⟩ := stuffTransfer_delivers_tx_data ht.1 hc ha
    refine ⟨fun hnot => ?_, fun _ => ⟨_, outputs_of_tx_data hp hd, by simpa using hwire⟩⟩
    simp [isTransfer_iff.2 ht] at hnot

/-- Settles O33: of everything an operation can do (`exec_next_cases`), only a stuffing action delivers, and it does so at a transfer. -/
theorem operationsDeliverAtMostOneByte : Obligations.OperationsDeliverAtMostOneByte := by
  intro i s t h
  obtain ⟨-, rfl⟩ | ⟨-, rfl⟩ | ⟨c, rfl⟩ | ⟨ht, a, v, c, rfl⟩ := exec_next_cases h
  · exact .inl rfl
  · exact .inl rfl
  · exact .inl rfl
  · obtain ⟨b, hb⟩ := stuffTransfer_wire s a v
    exact .inr ⟨ht, _, hb⟩

/-- Settles O44: an accept (`step_accept`) writes all six elements from the ports and the parameters. -/
theorem noHistoryAcrossFrames : Obligations.NoHistoryAcrossFrames := by
  intro s u s' u' hs hu hacc hidle hports hcfg hstep hstep'
  obtain ⟨hst, hrst, hvalid⟩ := isAccept_iff.1 hacc
  rw [step_accept hs hst hrst hvalid] at hstep
  rw [step_accept hu hidle (hports ▸ hrst) (hports ▸ hvalid)] at hstep'
  cases hstep
  cases hstep'
  simp [hports, hcfg]

/-- Settles O29: the port functions around the presented byte, in IDLE and in RUN. -/
theorem outputsAreMooreOutputs : Obligations.OutputsAreMooreOutputs := by
  intro s hp
  constructor
  · intro hs
    have hdata : s.tx_data = some 0x00 := by simp [State.tx_data, hs]
    rw [outputs_of_tx_data hp hdata]
    simp [State.smp_ready, State.tx_valid, State.tx_sof, State.tx_last, hs, St.isRun]
  · intro c hs hc
    rw [outputs_of_tx_data hp (tx_data_of_run hs hc)]
    simp [State.smp_ready, State.tx_valid, State.tx_sof, State.tx_last, hs, St.isRun]

/-- Settles O38: after a reset edge the position is legal and, no frame being in flight, the checksum invariant asks nothing. -/
theorem resetIsSafe : Obligations.ResetIsSafe := by
  have safe_of_idle {s : State} (hp : s.InPosition) (hs : s.st = .idle) : s.Safe :=
    ⟨hp, fun hrun => by simp [hs] at hrun⟩
  constructor
  · exact safe_of_idle (inPosition_of_tail_false (fun _ => rfl) (by decide) rfl) rfl
  · intro s t hrst h
    rw [step_reset hrst] at h
    cases h
    exact safe_of_idle (nextCycle_inPosition.2 (resetElements_inPosition s)) (by simp)

end Sys2Proof.Proofs

/-! SUPPORT. The bits of the wire-order bytes (20_memory.md R51, R52), and the runs in which the block holds all six state elements
(40_formatter.md R111, R112). -/

namespace Sys2Proof.Machine

/-! ## Wire-order bytes -/

theorem floatByte_le_getLsbD (k : Fin 4) (w : Word) {i : Nat} (hi : i < 8) :
    (floatByte .le k w).getLsbD i = w.getLsbD (8 * k.val + i) := by
  simp [floatByte, hi]

theorem floatByte_be_getLsbD (k : Fin 4) (w : Word) {i : Nat} (hi : i < 8) :
    (floatByte .be k w).getLsbD i = w.getLsbD (24 - 8 * k.val + i) := by
  simp [floatByte, hi]

theorem crcByte_le_getLsbD (k : Fin 2) (c : Half) {i : Nat} (hi : i < 8) :
    (crcByte .le k c).getLsbD i = c.getLsbD (8 * k.val + i) := by
  simp [crcByte, hi]

theorem crcByte_be_getLsbD (k : Fin 2) (c : Half) {i : Nat} (hi : i < 8) :
    (crcByte .be k c).getLsbD i = c.getLsbD (8 - 8 * k.val + i) := by
  simp [crcByte, hi]

/-! ## Holding runs -/

/-- If the block holds in every cycle of `st` whose ports are `quiet`, then over any number of listed quiet cycles the run changes nothing
but the environment's inputs. -/
theorem runs_of_quiet {st : St} {quiet : Ports → Prop}
    (hold : ∀ u : State, u.InPosition → u.st = st → quiet u.ports → step u = .next u.nextCycle)
    {s : State} {ins rest : List Ports} (hp : s.InPosition) (hst : s.st = st)
    (hnow : quiet s.ports) (hstim : s.stimulus = ins ++ rest) (hins : ∀ p ∈ ins, quiet p) :
    ∃ q, Runs ins.length s { s with ports := q, stimulus := rest } := by
  induction ins generalizing s with
  | nil =>
    rw [List.nil_append] at hstim
    exact ⟨s.ports, (runs_zero _ _).2 (hstim ▸ rfl)⟩
  | cons p ins ih =>
    obtain ⟨hhead, htail⟩ := List.forall_mem_cons.1 hins
    have hnext : s.nextCycle = { s with ports := p, stimulus := ins ++ rest } :=
      nextCycle_of_cons s hstim
    obtain ⟨q, hrest⟩ := ih (s := { s with ports := p, stimulus := ins ++ rest })
      (hnext ▸ nextCycle_inPosition.2 hp) hst hhead rfl htail
    exact ⟨q, (runs_succ _ _ _).2 ⟨_, hnext ▸ hold s hp hst hnow, hrest⟩⟩

end Sys2Proof.Machine

/-! The wire-order bytes, and a block that is offered nothing (20_memory.md R51, R52, R59). -/

namespace Sys2Proof.Proofs

open Sys2Proof Sys2Proof.Machine

/-- Settles O46: an idle wait holds the block (`step_idleWait`), so a run of idle waits changes the environment's inputs alone. -/
theorem nothingIsSentWithoutAccept : Obligations.NothingIsSentWithoutAccept := by
  intro s ins rest hp hidle hrst hvalid hstim hins
  obtain ⟨q, hrun⟩ := runs_of_quiet (quiet := fun p => p.rst = false ∧ p.smp_valid = false)
    (fun _ hu hst ⟨hr, hv⟩ => step_idleWait hu hst hr hv)
    hp hidle ⟨hrst, hvalid⟩ hstim hins
  exact ⟨_, hrun, hidle, rfl, rfl, rfl, rfl, rfl, rfl⟩

/-- Settles O47: eight bits from bit 8k up, or from the mirrored position when the order is BE. -/
theorem wireOrderBytesAreTheseBits : Obligations.WireOrderBytesAreTheseBits := by
  constructor
  · intro w i hi k
    exact ⟨floatByte_le_getLsbD k w hi, floatByte_be_getLsbD k w hi⟩
  · intro c i hi
    have hlow : c.getLsbD (0 + i) = c.getLsbD i := by rw [Nat.zero_add]
    exact ⟨(crcByte_le_getLsbD 0 c hi).trans hlow, crcByte_le_getLsbD 1 c hi,
      crcByte_be_getLsbD 0 c hi, (crcByte_be_getLsbD 1 c hi).trans hlow⟩

end Sys2Proof.Proofs

/-! SUPPORT. The four decoders against their tables: what a vector that fits its format decodes to, the row it is then a vector of, and the
error with which each of the others is rejected (30_encoding.md R70 to R78). -/

namespace Sys2Proof

/-! ## Vectors that fit their format -/

/-- A byte that fits `n` bits is its low `n` bits. -/
theorem setWidth_eq_iff_of_lt {n : Nat} (hn : n ≤ 8) {w : Byte} (hw : w.toNat < 2 ^ n) (v : BitVec n) :
    w.setWidth n = v ↔ w = v.setWidth 8 := by
  have hv : v.toNat < 2 ^ 8 := v.isLt.trans_le (Nat.pow_le_pow_right (by decide) hn)
  rw [← BitVec.toNat_inj, ← BitVec.toNat_inj, BitVec.toNat_setWidth, BitVec.toNat_setWidth,
    Nat.mod_eq_of_lt hw, Nat.mod_eq_of_lt hv]

theorem Format.width_le_eight (f : Format) : f.width ≤ 8 := by
  cases f <;> decide

/-- A byte fits a format when it has no bit outside the format's bits. -/
theorem Format.lt_of_and_allOnes (f : Format) {w : Byte} (h : w &&& f.allOnes = w) :
    w.toNat < 2 ^ f.width := by
  have hones : f.allOnes.toNat = 2 ^ f.width - 1 := by cases f <;> rfl
  rw [← h, BitVec.toNat_and, hones, Nat.and_two_pow_sub_one_eq_mod]
  exact Nat.mod_lt _ (Nat.two_pow_pos _)

theorem decode_of_not_lt {f : Format} {w : Byte} (h : ¬ w.toNat < 2 ^ f.width) :
    decode f w = .error .tooWide := if_neg h

theorem lt_of_decode_ok {f : Format} {w : Byte} {i : Instr} (h : decode f w = .ok i) :
    w.toNat < 2 ^ f.width := by
  by_contra hw
  simp [decode_of_not_lt hw] at h

theorem decode_ev {w : Byte} (h : w.toNat < 2 ^ Format.ev.width) :
    decode .ev w = .ok (decodeEv (w.setWidth 4)).toInstr := if_pos h

theorem decode_ctl {w : Byte} (h : w.toNat < 2 ^ Format.ctl.width) :
    decode .ctl w = (decodeCtl (w.setWidth 6)).map CtlOp.toInstr := if_pos h

theorem decode_stf {w : Byte} (h : w.toNat < 2 ^ Format.stf.width) :
    decode .stf w = (decodeStf (w.setWidth 3)).map StfOp.toInstr := if_pos h

theorem decode_crcv {w : Byte} (h : w.toNat < 2 ^ Format.crcv.width) :
    decode .crcv w = (decodeCrcv (w.setWidth 3)).map CrcOp.toInstr := if_pos h

theorem map_eq_ok_iff {α : Type} {d : Except DecodeError α} {toInstr : α → Instr} {i : Instr} :
    d.map toInstr = .ok i ↔ ∃ op, d = .ok op ∧ toInstr op = i := by
  cases d <;> simp [Except.map]

theorem map_eq_error_iff {α : Type} {d : Except DecodeError α} {toInstr : α → Instr}
    {e : DecodeError} : d.map toInstr = .error e ↔ d = .error e := by
  cases d <;> simp [Except.map]

/-! ## The rows of each format -/

/-- The byte has the row's match value in the bits of the row's mask. -/
abbrev Instr.Matches (i : Instr) (w : Byte) : Prop := w &&& i.encoding.mask = i.encoding.value

theorem EvOp.format_toInstr (op : EvOp) : op.toInstr.encoding.format = .ev := by
  cases op <;> rfl

theorem CtlOp.format_toInstr (op : CtlOp) : op.toInstr.encoding.format = .ctl := by
  cases op <;> rfl

theorem StfOp.format_toInstr (op : StfOp) : op.toInstr.encoding.format = .stf := by
  cases op <;> rfl

theorem CrcOp.format_toInstr (op : CrcOp) : op.toInstr.encoding.format = .crcv := by
  cases op <;> rfl

theorem decodeEv_eq_iff (v : BitVec 4) (op : EvOp) :
    decodeEv v = op ↔ op.toInstr.Matches (v.setWidth 8) := by
  revert v; cases op <;> decide

theorem decodeCtl_eq_ok_iff (v : BitVec 6) (op : CtlOp) :
    decodeCtl v = .ok op ↔ op.toInstr.Matches (v.setWidth 8) := by
  revert v; cases op <;> decide

theorem decodeStf_eq_ok_iff (v : BitVec 3) (op : StfOp) :
    decodeStf v = .ok op ↔ op.toInstr.Matches (v.setWidth 8) := by
  revert v; cases op <;> decide

theorem decodeCrcv_eq_ok_iff (v : BitVec 3) (op : CrcOp) :
    decodeCrcv v = .ok op ↔ op.toInstr.Matches (v.setWidth 8) := by
  revert v; cases op <;> decide

/-- A format whose packed decoder `d` reads each of its rows by match and mask accepts exactly its rows. -/
theorem decode_eq_ok_iff_of_rows {α : Type} {f : Format} {toInstr : α → Instr}
    {d : BitVec f.width → Except DecodeError α}
    (hdec : ∀ {w : Byte}, w.toNat < 2 ^ f.width → decode f w = (d (w.setWidth f.width)).map toInstr)
    (hfmt : ∀ op, (toInstr op).encoding.format = f)
    (hrow : ∀ v op, d v = .ok op ↔ (toInstr op).Matches (v.setWidth 8))
    {w : Byte} (hw : w.toNat < 2 ^ f.width) {i : Instr} :
    decode f w = .ok i ↔ i.encoding.format = f ∧ i.Matches w := by
  have hback : w = (w.setWidth f.width).setWidth 8 :=
    (setWidth_eq_iff_of_lt f.width_le_eight hw _).1 rfl
  rw [hdec hw, map_eq_ok_iff]
  constructor
  · rintro ⟨op, hop, rfl⟩
    exact ⟨hfmt op, hback ▸ (hrow _ op).1 hop⟩
  · rintro ⟨hi, hmatch⟩
    have hvalue : decode f i.encoding.value = .ok i := hi ▸ Machine.decode_encoding_value i
    rw [hdec (lt_of_decode_ok hvalue), map_eq_ok_iff] at hvalue
    obtain ⟨op, -, rfl⟩ := hvalue
    exact ⟨op, (hrow _ op).2 (hback ▸ hmatch), rfl⟩

/-- The decoder accepts exactly the rows of the table (R70, R74, R76, R77). -/
theorem decode_eq_ok_iff {f : Format} {w : Byte} {i : Instr} :
    decode f w = .ok i ↔ i.encoding.format = f ∧ w.toNat < 2 ^ f.width ∧ i.Matches w := by
  by_cases hw : w.toNat < 2 ^ f.width
  · simp only [hw, true_and]
    cases f with
    | ev =>
      exact decode_eq_ok_iff_of_rows (f := .ev) (d := fun v => .ok (decodeEv v)) decode_ev EvOp.format_toInstr
        (fun v op => (Iff.of_eq (Except.ok.injEq _ _)).trans (decodeEv_eq_iff v op)) hw
    | ctl => exact decode_eq_ok_iff_of_rows decode_ctl CtlOp.format_toInstr decodeCtl_eq_ok_iff hw
    | stf => exact decode_eq_ok_iff_of_rows decode_stf StfOp.format_toInstr decodeStf_eq_ok_iff hw
    | crcv => exact decode_eq_ok_iff_of_rows decode_crcv CrcOp.format_toInstr decodeCrcv_eq_ok_iff hw
  · simp [decode_of_not_lt hw, hw]

/-! ## The encoder -/

/-- Every row's match lies in its mask, and its mask in its format's bits. -/
theorem fixedBits (i : Instr) : Laws.FixedBits.Statement i := by
  open Laws.FixedBits in
  cases i
  exacts [reset, accept, idleWait, stall, xfer, emitRawSom, emitScLen, emitScCmd, emitScFlag,
    emitScPb0, emitScPb1, emitScPb2, emitScPb3, emitScRb0, emitScRb1, emitScRb2, emitScRb3,
    emitScZero, emitSCk0, emitSCk1, emitRawEom, rawemit, pass, head, tail, crcRst, crcInit, crcUpd,
    crcHold]

/-- A bit of a row's match is a bit of its mask. -/
theorem mask_getElem_of_value (i : Instr) {j : Nat} (hj : j < 8) :
    i.encoding.value[j] = true → i.encoding.mask[j] = true := by
  obtain ⟨hvalue, -, -⟩ := fixedBits i
  simpa using congrArg (·[j]) hvalue

/-- A bit of a row's mask is a bit of its format. -/
theorem allOnes_getElem_of_mask (i : Instr) {j : Nat} (hj : j < 8) :
    i.encoding.mask[j] = true → i.encoding.format.allOnes[j] = true := by
  obtain ⟨-, hmask, -⟩ := fixedBits i
  simpa using congrArg (·[j]) hmask

/-- Filling the don't-care bits leaves the fixed bits alone. -/
theorem encode_matches (i : Instr) (fill : Byte) : i.Matches (encode i fill) := by
  unfold Instr.Matches encode
  ext j hj
  have hvalue := mask_getElem_of_value i hj
  cases hm : i.encoding.mask[j] <;> simp_all

/-- Filling the don't-care bits sets no bit outside the format. -/
theorem encode_lt (i : Instr) (fill : Byte) :
    (encode i fill).toNat < 2 ^ i.encoding.format.width := by
  refine i.encoding.format.lt_of_and_allOnes ?_
  unfold encode
  ext j hj
  have hvalue := mask_getElem_of_value i hj
  have hmask := allOnes_getElem_of_mask i hj
  cases hf : i.encoding.format.allOnes[j] <;> simp_all

/-! ## Rejections -/

/-- A control word that decodes is the match value of its row, whose mask is the whole word. -/
theorem decodeCtl_ok_word {v : BitVec 6} {op : CtlOp} (h : decodeCtl v = .ok op) :
    op.toInstr.encoding.value.setWidth 6 = v := by
  have hmask : op.toInstr.encoding.mask = 0x3F := by cases op <;> rfl
  have hlow : ∀ v : BitVec 6, (v.setWidth 8 &&& (0x3F : Byte)).setWidth 6 = v := by decide
  rw [← (decodeCtl_eq_ok_iff v op).1 h, hmask, hlow]

/-- Every micro-operation's word is in the slot ROM (R74). -/
theorem slotRom_of_decodeCtl {v : BitVec 6} {op : CtlOp} (h : decodeCtl v = .ok op) :
    ∃ k : Slot, slotRom k = .ok v := by
  rw [← decodeCtl_ok_word h]
  cases op
  exacts [⟨0, rfl⟩, ⟨1, rfl⟩, ⟨2, rfl⟩, ⟨3, rfl⟩, ⟨4, rfl⟩, ⟨5, rfl⟩, ⟨6, rfl⟩, ⟨7, rfl⟩, ⟨8, rfl⟩,
    ⟨9, rfl⟩, ⟨10, rfl⟩, ⟨11, rfl⟩, ⟨12, rfl⟩, ⟨16, rfl⟩, ⟨17, rfl⟩, ⟨18, rfl⟩]

/-- The control decoder has one rejection (R78). -/
theorem decodeCtl_error {v : BitVec 6} {e : DecodeError} (h : decodeCtl v = .error e) :
    e = .reservedControlWord := by
  unfold decodeCtl at h
  split at h <;> cases h
  rfl

/-- A control word is rejected when no slot holds it, always by the same name (R78). -/
theorem decodeCtl_eq_error_iff {v : BitVec 6} {e : DecodeError} :
    decodeCtl v = .error e ↔ e = .reservedControlWord ∧ ∀ k : Slot, slotRom k ≠ .ok v := by
  constructor
  · intro h
    refine ⟨decodeCtl_error h, fun k hk => ?_⟩
    obtain ⟨op, hop⟩ := Machine.decodeCtl_of_slotRom hk
    simp [hop] at h
  · rintro ⟨rfl, hrom⟩
    cases hd : decodeCtl v with
    | error e => rw [decodeCtl_error hd]
    | ok op =>
      obtain ⟨k, hk⟩ := slotRom_of_decodeCtl hd
      exact absurd hk (hrom k)

/-- STF 01x and 110 (R76, R78). -/
theorem decodeStf_eq_error_iff {v : BitVec 3} {e : DecodeError} :
    decodeStf v = .error e ↔ e = .reservedStuffing ∧ (v = 0b010 ∨ v = 0b011 ∨ v = 0b110) := by
  revert v; cases e <;> decide

/-- CRC 011 (R77, R78). -/
theorem decodeCrcv_eq_error_iff {v : BitVec 3} {e : DecodeError} :
    decodeCrcv v = .error e ↔ e = .reservedChecksumAction ∧ v = 0b011 := by
  revert v; cases e <;> decide

/-- Which bytes are rejected, and by which name (R78). -/
theorem decode_eq_error_iff {f : Format} {w : Byte} {e : DecodeError} :
    decode f w = .error e ↔
      (e = .tooWide ∧ 2 ^ f.width ≤ w.toNat) ∨
      (e = .reservedControlWord ∧ f = .ctl ∧ w.toNat < 64 ∧ ∀ k : Slot, slotRom k ≠ .ok (w.setWidth 6)) ∨
      (e = .reservedStuffing ∧ f = .stf ∧ (w = 0b010 ∨ w = 0b011 ∨ w = 0b110)) ∨
      (e = .reservedChecksumAction ∧ f = .crcv ∧ w = 0b011) := by
  by_cases hw : w.toNat < 2 ^ f.width
  · simp only [hw.not_ge, and_false, false_or]
    cases f with
    | ev => simp [decode_ev hw]
    | ctl =>
      simp [decode_ctl hw, map_eq_error_iff, decodeCtl_eq_error_iff, show w.toNat < 64 from hw]
    | stf =>
      have hv := setWidth_eq_iff_of_lt (n := 3) (by decide) hw
      simp [decode_stf hw, map_eq_error_iff, decodeStf_eq_error_iff, hv]
    | crcv =>
      have hv := setWidth_eq_iff_of_lt (n := 3) (by decide) hw
      simp [decode_crcv hw, map_eq_error_iff, decodeCrcv_eq_error_iff, hv]
  · rw [decode_of_not_lt hw]
    constructor
    · rintro ⟨⟩
      exact .inl ⟨rfl, Nat.not_lt.1 hw⟩
    · rintro (⟨rfl, -⟩ | ⟨-, rfl, hlt, -⟩ | ⟨-, rfl, rfl | rfl | rfl⟩ | ⟨-, rfl, rfl⟩)
      · rfl
      · exact absurd hlt hw
      all_goals exact absurd (by decide) hw

/-! ## The event of a cycle -/

/-- The event vector decodes as its four fields do (R70). -/
theorem decode_eventVector (s : Machine.State) :
    decode .ev ((Claims.eventVector s).setWidth 8) =
      .ok (decodeEvBits s.ports.rst s.st.isRun s.ports.smp_valid s.ports.tx_ready).toInstr := by
  unfold Claims.eventVector
  generalize s.ports.rst = rst, s.st.isRun = run, s.ports.smp_valid = valid, s.ports.tx_ready = ready
  revert rst run valid ready
  decide

end Sys2Proof

namespace Sys2Proof.Machine

/-- In a cycle that has a meaning, the selected event is the decoded one (R70). -/
theorem selectEv_of_meaning {s : State} (h : s.ports.rst = true ∨ s.InPosition) :
    s.selectEv = .ok (decodeEvBits s.ports.rst s.st.isRun s.ports.smp_valid s.ports.tx_ready) := by
  obtain hrst | hp := h
  · rw [selectEv_of_rst hrst, hrst]; rfl
  · exact selectEv_of_inPosition hp

/-- A step completes in a reset cycle, and in every legal position. -/
theorem step_completes {s : State} (h : s.ports.rst = true ∨ s.InPosition) :
    ∃ u, step s = .next u := by
  cases hrst : s.ports.rst with
  | true => exact ⟨_, step_reset hrst⟩
  | false =>
    have hp : s.InPosition := h.resolve_left (by simp [hrst])
    cases hs : s.st with
    | idle =>
      cases hv : s.ports.smp_valid with
      | true => exact ⟨_, step_accept hp hs hrst hv⟩
      | false => exact ⟨_, step_idleWait hp hs hrst hv⟩
    | run =>
      cases hready : s.ports.tx_ready with
      | false => exact ⟨_, step_stall hp ⟨hs, hrst, hready⟩⟩
      | true =>
        obtain ⟨c, hc⟩ := hp.rom
        obtain ⟨a, ha⟩ := stuffing_decodes hp hc
        exact ⟨_, step_xfer hp ⟨hs, hrst, hready⟩ hc ha⟩

/-- A step that completes is its selected event, then the next cycle (R109). -/
theorem exec_of_step {s u : State} {e : EvOp} (hsel : s.selectEv = .ok e) (h : step s = .next u) :
    ∃ t, exec e.toInstr s = .next t ∧ u = t.nextCycle := by
  unfold step at h
  rw [hsel] at h
  cases hx : exec e.toInstr s with
  | next t =>
    simp only [hx, Host.Outcome.next.injEq] at h
    exact ⟨t, rfl, h.symm⟩
  | fault f => simp [hx] at h
  | refused r => simp [hx] at h

end Sys2Proof.Machine

/-! The encodings (30_encoding.md R70 to R78, 40_formatter.md R109). -/

namespace Sys2Proof.Proofs

open Sys2Proof Sys2Proof.Machine

/-- Settles O3: each packed decoder reads its rows by match and mask, and a byte that fits is its packed vector
(`decode_eq_ok_iff_of_rows`). -/
theorem decoderAcceptsExactlyTheTable : Obligations.DecoderAcceptsExactlyTheTable :=
  fun _ _ _ => decode_eq_ok_iff

/-- Settles O2: by O3's characterisation, since an encoded word fits its format (`encode_lt`) and keeps the row's fixed bits
(`encode_matches`). -/
theorem decodeOfEncodeIsTheOperation : Obligations.DecodeOfEncodeIsTheOperation :=
  fun i fill => decode_eq_ok_iff.2 ⟨rfl, encode_lt i fill, encode_matches i fill⟩

/-- Settles O1: each word is in the row that the table names, and the decoder accepts the table (`decode_eq_ok_iff`). -/
theorem specWordsDecode : Obligations.SpecWordsDecode := by
  unfold Obligations.SpecWordsDecode
  simp only [decode_eq_ok_iff]
  decide

/-- Settles O4: the slot ROM ends at slot 18, and `decode_eq_error_iff` gives each name its bytes. -/
theorem reservedEncodingsAreRejected : Obligations.ReservedEncodingsAreRejected := by
  refine ⟨fun k => ⟨fun h => ?_, slotRom_error_of_lt⟩, fun f w => ?_⟩
  · by_contra hk
    obtain ⟨c, hc⟩ := (slotRom_ok_iff_le k).2 (Nat.not_lt.1 hk)
    simp [hc] at h
  · simp [decode_eq_error_iff]

/-- Settles O5: the step completes (`step_completes`), the event it selects is the one that the event vector decodes to
(`decode_eventVector`), and it runs that event (`exec_of_step`). -/
theorem stepRunsTheDecodedEvent : Obligations.StepRunsTheDecodedEvent := by
  intro s h
  obtain ⟨u, hu⟩ := step_completes h
  obtain ⟨t, ht, rfl⟩ := exec_of_step (selectEv_of_meaning h) hu
  exact ⟨_, t, decode_eventVector s, ht, hu⟩

end Sys2Proof.Proofs

/-! SUPPORT. What the slot micro-operations leave in a transfer cycle of their slot, by the slot's class, and that a cycle without a
transfer holds the state (40_formatter.md R112 to R130). -/

namespace Sys2Proof.Machine

open Sys2Proof.Claims

/-! ## Bytes by their position -/

/-- B_k is eight bits from bit 8k up, or from the mirrored position when the order is BE (R51). -/
theorem floatByte_eq_orderedByte (order : ByteOrder) (k : Fin 4) (w : Word) :
    floatByte order k w = orderedByte order (8 * k.val) (24 - 8 * k.val) w := by
  cases order <;> rfl

/-- C_k is eight bits from bit 8k up, or from the mirrored position when the order is BE (R52). -/
theorem crcByte_eq_orderedByte (order : ByteOrder) (k : Fin 2) (c : Half) :
    crcByte order k c = orderedByte order (8 * k.val) (8 - 8 * k.val) c := by
  cases order <;> rfl

/-- Slots 12 to 15 hold the zero source (R74). -/
theorem slotRom_of_zero_slot {k : Slot} (h12 : 12 ≤ k.toNat) (h15 : k.toNat ≤ 15) :
    slotRom k = .ok 0x3C := by
  revert k
  decide

/-! ## Stuffed slots -/

/-- The micro-operation of a stuffed slot in a transfer cycle: the tail of a pair, its head, or the byte itself; the checksum qualifier
decides whether crc absorbs the logical byte at the first of them (R113, R141, R163). -/
theorem exec_stuffed_slot {s : State} {c : BitVec 6} {op : CtlOp} (hp : s.InPosition)
    (ht : Transfers s) (hc : slotRom s.slot = .ok c) (hd : decodeCtl c = .ok op)
    (hstuff : ctlStuffEn c = true) :
    exec op.toInstr s = .next (
      if s.tail = true then
        { s with wire := emitted s (s.logicalByte c - s.esc), tail := false, slot := s.slot + 1 }
      else if s.esc ≤ s.logicalByte c then
        { s with wire := emitted s s.esc, tail := true,
                 crc := if ctlCrcEn c then crcUpd s.crc (s.logicalByte c) else s.crc }
      else
        { s with wire := emitted s (s.logicalByte c), slot := s.slot + 1,
                 crc := if ctlCrcEn c then crcUpd s.crc (s.logicalByte c) else s.crc }) := by
  have hne : ¬ s.slot = 18 := slot_ne_eom_of_stuffed hc hstuff
  obtain ⟨a, ha⟩ := stuffing_decodes hp hc
  rw [exec_ctl_of_transfer hp ht hc hd ha]
  obtain ⟨rfl, hraw, -⟩ | ⟨rfl, -, htail, hge⟩ | ⟨rfl, -, htail, hge⟩ | ⟨rfl, -, htail, -⟩ :=
    decodeStfBits_ok_cases ha
  · simp [hraw] at hstuff
  · have hlt : ¬ s.esc ≤ s.logicalByte c := of_decide_eq_false hge
    rw [stuffTransfer_pass ht.1 _ hne]
    simp [htail, hlt, emitted]
  · have hle : s.esc ≤ s.logicalByte c := of_decide_eq_true hge
    rw [stuffTransfer_head ht.1]
    simp [htail, hle, emitted]
  · rw [stuffTransfer_tail ht.1 _ hne]
    simp [htail, emitted]

/-- A checksummed slot `k` with logical byte `v` transfers one byte of stuff(v) and is followed by slot `next` (R116 to R127). -/
theorem exec_sc_slot {s : State} {k next : Slot} {c : BitVec 6} {op : CtlOp} {v : Byte}
    (hp : s.InPosition) (ht : Transfers s) (hk : s.slot = k) (hc : slotRom k = .ok c)
    (hd : decodeCtl c = .ok op) (hcls : ctlStuffEn c = true ∧ ctlCrcEn c = true)
    (hv : s.logicalByte c = v) (hnext : k + 1 = next) :
    exec op.toInstr s = .next (scNext v next s) := by
  subst hk hv hnext
  rw [exec_stuffed_slot hp ht hc hd hcls.1]
  simp [scNext, hcls.2]

/-- A stuffed slot `k` outside the checksum transfers one byte of stuff(v) and holds crc (R128, R129). -/
theorem exec_s_slot {s : State} {k next : Slot} {c : BitVec 6} {op : CtlOp} {v : Byte}
    (hp : s.InPosition) (ht : Transfers s) (hk : s.slot = k) (hc : slotRom k = .ok c)
    (hd : decodeCtl c = .ok op) (hcls : ctlStuffEn c = true ∧ ctlCrcEn c = false)
    (hv : s.logicalByte c = v) (hnext : k + 1 = next) :
    exec op.toInstr s = .next (sNext v next s) := by
  subst hk hv hnext
  rw [exec_stuffed_slot hp ht hc hd hcls.1]
  simp [sNext, hcls.2]

/-! ## Marker slots -/

/-- A raw slot is not checksummed (R72). -/
theorem crcEn_of_raw {k : Slot} {c : BitVec 6} (hc : slotRom k = .ok c)
    (hraw : ctlStuffEn c = false) : ctlCrcEn c = false := by
  obtain ⟨hstuff, hcrc⟩ := slotRom_class hc
  rw [hcrc, decide_eq_false_iff_not]
  rw [hstuff, decide_eq_false_iff_not] at hraw
  omega

/-- The micro-operation of a raw slot in a transfer cycle: its byte unescaped, the checksum held, and ADVANCE (R114, R115, R130). -/
theorem exec_raw_slot {s : State} {c : BitVec 6} {op : CtlOp} (hp : s.InPosition)
    (ht : Transfers s) (hc : slotRom s.slot = .ok c) (hd : decodeCtl c = .ok op)
    (hraw : ctlStuffEn c = false) :
    exec op.toInstr s = .next (
      if s.slot = 18 then
        { s with wire := emitted s (s.logicalByte c), st := .idle, slot := 0 }
      else { s with wire := emitted s (s.logicalByte c), slot := s.slot + 1 }) := by
  have htail : s.tail = false := tail_false_of_raw hp hc hraw
  have ha : decodeStfBits (ctlStuffEn c) s.tail (s.needsEscape (s.logicalByte c)) = .ok .rawemit := by
    simp [decodeStfBits, hraw, htail]
  rw [exec_ctl_of_transfer hp ht hc hd ha, stuffTransfer_rawemit ht.1]
  split <;> simp [crcEn_of_raw hc hraw, htail, emitted]

/-! ## Cycles without a transfer -/

/-- No byte is transferred in a reset cycle, nor when the consumer is not ready (R25). -/
theorem isTransfer_eq_false {s : State} (h : s.ports.rst = true ∨ s.ports.tx_ready = false) :
    s.isTransfer = false := by
  rw [← Bool.not_eq_true, isTransfer_iff]
  rintro ⟨-, hrst, hready⟩
  simp [hrst, hready] at h

/-- The selected slot micro-operation holds the state in a cycle without a transfer (R112). -/
theorem exec_ctl_of_no_transfer {s : State} {c : BitVec 6} {op : CtlOp} (hp : s.InPosition)
    (hs : s.st = .run) (hno : s.isTransfer = false) (hc : slotRom s.slot = .ok c)
    (hd : decodeCtl c = .ok op) : exec op.toInstr s = .next s := by
  obtain ⟨cls, v, hop⟩ := runSlotOp_eq op s
  rw [exec_ctl, hop, selectCtl_of_run hp hs hc hd, runSelected_ok_self]
  simp [State.emitSlot, hno]

/-- The selected stuffing operation holds the state in a cycle without a transfer (41_stuffing.md section 2). -/
theorem exec_stf_of_no_transfer {s : State} {c : BitVec 6} {a : StfOp} (hp : s.InPosition)
    (hs : s.st = .run) (hno : s.isTransfer = false) (hc : slotRom s.slot = .ok c)
    (ha : decodeStfBits (ctlStuffEn c) s.tail (s.needsEscape (s.logicalByte c)) = .ok a) :
    exec a.toInstr s = .next s := by
  rw [exec_stf_eq, selectStf_of_run hp hs hc ha, runSelected_ok_self]
  simp [State.stuffCycle, hno]

end Sys2Proof.Machine

/-! The cycle events and the slot micro-operations (40_formatter.md R109 to R130). -/

namespace Sys2Proof.Proofs

open Sys2Proof Sys2Proof.Machine Sys2Proof.Claims

/-- Settles O8: the event vector 001x selects ACCEPT, which captures the ports. -/
theorem acceptCapturesTheSample : Obligations.AcceptCapturesTheSample := by
  intro s hp hst hrst hvalid
  have hsel : s.selectEv = .ok .accept := by
    rw [selectEv_of_inPosition hp]
    simp [hst, hrst, hvalid, decodeEvBits, St.isRun]
  exact ⟨runSelected_next_iff.2 ⟨hsel, rfl⟩, by simp [State.smp_ready, hst, St.isRun],
    by simp [State.tx_valid, hst, St.isRun]⟩

/-- Settles O9: the event vector 000x selects IDLE_WAIT; the outputs are those of IDLE (O29). -/
theorem idleWaitChangesNothing : Obligations.IdleWaitChangesNothing := by
  intro s hp hst hrst hvalid
  have hsel : s.selectEv = .ok .idleWait := by
    rw [selectEv_of_inPosition hp]
    simp [hst, hrst, hvalid, decodeEvBits, St.isRun]
  exact ⟨runSelected_next_iff.2 ⟨hsel, rfl⟩, (outputsAreMooreOutputs s hp).1 hst⟩

/-- Settles O10: the event vector 01x0 selects STALL. -/
theorem stallChangesNothing : Obligations.StallChangesNothing := by
  intro s hp ⟨hst, hrst, hready⟩
  have hsel : s.selectEv = .ok .stall := by
    rw [selectEv_of_inPosition hp]
    simp [hst, hrst, hready, decodeEvBits, St.isRun]
  exact runSelected_next_iff.2 ⟨hsel, rfl⟩

/-- Settles O11: XFER is the slot's micro-operation; a raw slot advances (`exec_raw_slot`), and a stuffed one delivers the tail, the head
or the byte itself (`exec_stuffed_slot`), which is what tx_data presents. -/
theorem xferTransfersOneByte : Obligations.XferTransfersOneByte := by
  intro s c d hp ht hc hd v crc'
  obtain ⟨op, hop⟩ := decodeCtl_of_slotRom hc
  rw [exec_xfer_of_transfer hp ht hc hop]
  rw [tx_data_of_run ht.1 hc, Option.some.injEq] at hd
  subst hd
  cases hstuff : ctlStuffEn c with
  | false =>
    rw [exec_raw_slot hp ht hc hop hstuff]
    simp [crc', v, crcEn_of_raw hc hstuff, tail_false_of_raw hp hc hstuff]
  | true =>
    rw [exec_stuffed_slot hp ht hc hop hstuff, if_neg (slot_ne_eom_of_stuffed hc hstuff)]
    cases htail : s.tail with
    | true => simp [crc', htail, v]
    | false => by_cases hge : s.esc ≤ s.logicalByte c <;> simp [hge, crc', htail, v]

/-- Settles O12: slots 0 and 18 are raw (`exec_raw_slot`), with the markers as their sources. -/
theorem markerSlotsEmitRawMarkers : Obligations.MarkerSlotsEmitRawMarkers := by
  intro s hp ht
  constructor
  · intro hk
    have hbyte : s.logicalByte 0x00 = s.cfg.params.som := rfl
    have h : exec .emitRawSom s = _ :=
      exec_raw_slot (op := .rawSom) hp ht (hk ▸ rfl : slotRom s.slot = .ok 0x00) rfl rfl
    rw [hbyte] at h
    simpa [hk, emitted] using h
  · intro hk
    have hbyte : s.logicalByte 0x0F = s.cfg.params.eom := rfl
    have h : exec .emitRawEom s = _ :=
      exec_raw_slot (op := .rawEom) hp ht (hk ▸ rfl : slotRom s.slot = .ok 0x0F) rfl rfl
    rw [hbyte] at h
    simpa [hk, emitted] using h

/-- Settles O13: the checksummed slots 1 to 3 (`exec_sc_slot`) with their sources. -/
theorem headerSlotsEmitConstants : Obligations.HeaderSlotsEmitConstants := fun _ hp ht =>
  ⟨fun hk => exec_sc_slot (op := .scLen) hp ht hk rfl rfl ⟨rfl, rfl⟩ rfl rfl,
   fun hk => exec_sc_slot (op := .scCmd) hp ht hk rfl rfl ⟨rfl, rfl⟩ rfl rfl,
   fun hk => exec_sc_slot (op := .scFlag) hp ht hk rfl rfl ⟨rfl, rfl⟩ rfl rfl⟩

/-- Settles O14: the checksummed slots 4 to 7 (`exec_sc_slot`), whose bytes are B_0 to B_3 of pitch_q. -/
theorem pitchSlotsEmitPitchBytes : Obligations.PitchSlotsEmitPitchBytes := fun _ hp ht =>
  ⟨fun hk => exec_sc_slot (op := .scPb0) hp ht hk rfl rfl ⟨rfl, rfl⟩
      (floatByte_eq_orderedByte _ 0 _) rfl,
   fun hk => exec_sc_slot (op := .scPb1) hp ht hk rfl rfl ⟨rfl, rfl⟩
      (floatByte_eq_orderedByte _ 1 _) rfl,
   fun hk => exec_sc_slot (op := .scPb2) hp ht hk rfl rfl ⟨rfl, rfl⟩
      (floatByte_eq_orderedByte _ 2 _) rfl,
   fun hk => exec_sc_slot (op := .scPb3) hp ht hk rfl rfl ⟨rfl, rfl⟩
      (floatByte_eq_orderedByte _ 3 _) rfl⟩

/-- Settles O15: the checksummed slots 8 to 11 (`exec_sc_slot`), whose bytes are B_0 to B_3 of roll_q. -/
theorem rollSlotsEmitRollBytes : Obligations.RollSlotsEmitRollBytes := fun _ hp ht =>
  ⟨fun hk => exec_sc_slot (op := .scRb0) hp ht hk rfl rfl ⟨rfl, rfl⟩
      (floatByte_eq_orderedByte _ 0 _) rfl,
   fun hk => exec_sc_slot (op := .scRb1) hp ht hk rfl rfl ⟨rfl, rfl⟩
      (floatByte_eq_orderedByte _ 1 _) rfl,
   fun hk => exec_sc_slot (op := .scRb2) hp ht hk rfl rfl ⟨rfl, rfl⟩
      (floatByte_eq_orderedByte _ 2 _) rfl,
   fun hk => exec_sc_slot (op := .scRb3) hp ht hk rfl rfl ⟨rfl, rfl⟩
      (floatByte_eq_orderedByte _ 3 _) rfl⟩

/-- Settles O16: the slots are checksummed (`exec_sc_slot`), and a zero byte is below every legal P_ESC, so no head is sent and no tail can
be pending. -/
theorem zeroSlotsEmitZero : Obligations.ZeroSlotsEmitZero := by
  intro s hp ht h12 h15
  have hc : slotRom s.slot = .ok 0x3C := slotRom_of_zero_slot h12 h15
  have hlt : ¬ s.esc ≤ (0x00 : Byte) := zero_lt_esc s.cfg
  have htail : s.tail = false := by
    by_contra h
    obtain ⟨c, hc', -, hge⟩ := hp.tail_escaped (by simpa using h)
    rw [hc] at hc'
    cases hc'
    exact hlt hge
  have h := exec_sc_slot (op := .scZero) hp ht rfl hc rfl ⟨rfl, rfl⟩ rfl rfl
  have hnext : scNext 0x00 (s.slot + 1) s =
      { s with wire := emitted s 0x00, crc := crcUpd s.crc 0x00, slot := s.slot + 1 } := by
    rw [scNext, if_neg (by simp [htail]), if_neg hlt]
  exact h.trans (congrArg _ hnext)

/-- Settles O17: slots 16 and 17 are stuffed and not checksummed (`exec_s_slot`), and their bytes are C_0 and C_1 of crc. -/
theorem checksumSlotsEmitChecksum : Obligations.ChecksumSlotsEmitChecksum := fun _ hp ht =>
  ⟨fun hk => exec_s_slot (op := .sCk0) hp ht hk rfl rfl ⟨rfl, rfl⟩
      (crcByte_eq_orderedByte _ 0 _) rfl,
   fun hk => exec_s_slot (op := .sCk1) hp ht hk rfl rfl ⟨rfl, rfl⟩
      (crcByte_eq_orderedByte _ 1 _) rfl⟩

/-- Settles O18: both operations are selected, and neither acts without a transfer. -/
theorem slotOperationsHoldWithoutTransfer : Obligations.SlotOperationsHoldWithoutTransfer :=
  fun _ _ _ _ hp hs hno hc hd ha =>
    ⟨exec_ctl_of_no_transfer hp hs (isTransfer_eq_false hno) hc hd,
     exec_stf_of_no_transfer hp hs (isTransfer_eq_false hno) hc ha⟩

/-- Settles O34: the vectors decode in a legal position, and the micro-operation is the stuffing action with the crc of the checksum action,
which absorbs the byte when the checksum qualifier is set and no tail is pending. -/
theorem transferIsStuffingAndChecksum : Obligations.TransferIsStuffingAndChecksum := by
  intro s c hp ht hc
  obtain ⟨op, hop⟩ := decodeCtl_of_slotRom hc
  obtain ⟨a, ha⟩ := stuffing_decodes hp hc
  have hk := selectCrc_of_run hp ht.1 ht.2.1 hc
  refine ⟨op, a, _, _, _, hop, ha, hk, exec_stf_of_transfer hp ht hc ha,
    exec_crc_of_selected hk, ?_, exec_xfer_of_transfer hp ht hc hop⟩
  rw [exec_ctl_of_transfer hp ht hc hop ha, ht.2.2, slotByte_of_run hp ht.1 hc]
  cases hq : ctlCrcEn c && !s.tail <;> simp [hq, crcNext]

end Sys2Proof.Proofs

/-! SUPPORT. The frame in flight: the checksum keeps in step with the bytes absorbed (42_checksum.md R165), every transfer delivers the first of
the bytes still to be delivered, and a run without reset delivers one of them per ready cycle (40_formatter.md R131 to R133). -/

namespace Sys2Proof.Machine

/-! ## The state after a transfer -/

/-- What a transfer leaves (`step_xfer`): the stuffing action `a` and the checksum action, in the slot of control word `c`. -/
def State.afterTransfer (s : State) (c : BitVec 6) (a : StfOp) : State :=
  { s.stuffTransfer a (s.logicalByte c) with
    crc := if ctlCrcEn c && !s.tail then crcUpd s.crc (s.logicalByte c) else s.crc }

section
variable (s : State) (c : BitVec 6) (a : StfOp)

@[simp] theorem afterTransfer_st :
    (s.afterTransfer c a).st = if a = .head then s.st else s.advance.st := stuffTransfer_st _ _ _
@[simp] theorem afterTransfer_slot :
    (s.afterTransfer c a).slot = if a = .head then s.slot else s.advance.slot :=
  stuffTransfer_slot _ _ _
@[simp] theorem afterTransfer_tail : (s.afterTransfer c a).tail = decide (a = .head) :=
  stuffTransfer_pending _ _ _
@[simp] theorem afterTransfer_crc : (s.afterTransfer c a).crc =
    if ctlCrcEn c && !s.tail then crcUpd s.crc (s.logicalByte c) else s.crc := rfl
@[simp] theorem afterTransfer_pitch_q : (s.afterTransfer c a).pitch_q = s.pitch_q :=
  stuffTransfer_pitch_q _ _ _
@[simp] theorem afterTransfer_roll_q : (s.afterTransfer c a).roll_q = s.roll_q :=
  stuffTransfer_roll_q _ _ _
@[simp] theorem afterTransfer_stimulus : (s.afterTransfer c a).stimulus = s.stimulus :=
  stuffTransfer_stimulus _ _ _
@[simp] theorem afterTransfer_cfg : (s.afterTransfer c a).cfg = s.cfg := stuffTransfer_cfg _ _ _
theorem afterTransfer_wire :
    (s.afterTransfer c a).wire = (s.stuffTransfer a (s.logicalByte c)).wire := rfl

end

/-! ## The logical bytes of a frame, by slot -/

/-- The logical byte of slot `k` is the frame's byte number `k`; in the checksum's slots that needs crc = K (R75, R107). -/
theorem logical_getElem?_slot {s : State} {c : BitVec 6} (hc : slotRom s.slot = .ok c)
    (hcrc : 16 ≤ s.slot.toNat → s.crc = checksum s.cfg.params s.pitch_q s.roll_q) :
    (logical s.cfg.params s.pitch_q s.roll_q)[s.slot.toNat]? = some (s.logicalByte c) := by
  unfold slotRom at hc
  split at hc
  case h_17 hk =>
    cases hc
    rw [hk, show s.logicalByte 0x2D = crcByte s.cfg.params.crcOrder 0 s.crc from rfl, hcrc (by omega)]
    rfl
  case h_18 hk =>
    cases hc
    rw [hk, show s.logicalByte 0x2E = crcByte s.cfg.params.crcOrder 1 s.crc from rfl, hcrc (by omega)]
    rfl
  case h_20 => cases hc
  all_goals
    rename_i hk
    cases hc
    rw [hk]
    rfl

/-- The checksum covers the logical bytes 1 to 15 (R160). -/
theorem covered_getElem? (p : Params) (pitch roll : Word) {k : Nat} (h1 : 1 ≤ k) (h15 : k ≤ 15) :
    (covered p pitch roll)[k - 1]? = (logical p pitch roll)[k]? := by
  obtain ⟨j, rfl⟩ := Nat.exists_eq_add_of_le' h1
  have hlen : (covered p pitch roll).length = 15 := rfl
  have hj : j < (covered p pitch roll).length := by omega
  simp [logical, interiorBytes, List.getElem?_append_left, hj]

/-! ## The checksum in step -/

/-- crc absorbs the bytes of a list in order. -/
theorem crcFold_append_singleton (x : Half) (bs : List Byte) (b : Byte) :
    crcFold x (bs ++ [b]) = crcUpd (crcFold x bs) b := by
  simp [crcFold]

/-- At a slot's first wire byte, the covered bytes of the slots before it are absorbed (R160). -/
theorem absorbed_of_tail_false {s : State} (h : s.tail = false) :
    s.absorbed = min 15 (s.slot.toNat - 1) := by
  simp [State.absorbed, h]

/-- Once its head is out, a slot's own covered byte is absorbed too (R163). -/
theorem absorbed_of_tail {s : State} (h : s.tail = true) :
    s.absorbed = min 15 (s.slot.toNat - 1 + 1) := by
  simp [State.absorbed, h]

/-- A transfer absorbs one covered byte when the checksum qualifier is set and no tail is pending, and none otherwise (R163). -/
theorem absorbed_afterTransfer {s : State} {c : BitVec 6} {a : StfOp} (hslot : s.slot.toNat ≤ 18)
    (hc : slotRom s.slot = .ok c)
    (ha : decodeStfBits (ctlStuffEn c) s.tail (s.needsEscape (s.logicalByte c)) = .ok a)
    (hrun : (s.afterTransfer c a).st = .run) :
    (s.afterTransfer c a).absorbed = s.absorbed + if ctlCrcEn c && !s.tail then 1 else 0 := by
  obtain ⟨hstuffed, hcovered⟩ := slotRom_class hc
  have advanced (hne : a ≠ .head) : (s.afterTransfer c a).slot.toNat = s.slot.toNat + 1 := by
    by_cases h18 : s.slot = 18
    · simp [hne, h18] at hrun
    · rw [afterTransfer_slot, if_neg hne, advance_slot, if_neg h18, (slot_succ hslot h18).1]
  simp only [hcovered, Bool.and_eq_true, decide_eq_true_eq, Bool.not_eq_true']
  obtain ⟨rfl, hraw, htail⟩ | ⟨rfl, -, htail, -⟩ | ⟨rfl, hstuff, htail, -⟩ |
    ⟨rfl, hstuff, htail, -⟩ := decodeStfBits_ok_cases ha
  · have hmarker : ¬ (1 ≤ s.slot.toNat ∧ s.slot.toNat ≤ 17) := by simpa [hraw] using hstuffed
    rw [absorbed_of_tail_false (by simp), absorbed_of_tail_false htail, advanced (by decide),
      if_neg (by omega)]
    omega
  · rw [absorbed_of_tail_false (by simp), absorbed_of_tail_false htail, advanced (by decide)]
    simp only [htail, and_true]
    split <;> omega
  · have hrange : 1 ≤ s.slot.toNat ∧ s.slot.toNat ≤ 17 := by simpa [hstuff] using hstuffed
    rw [absorbed_of_tail (by simp), absorbed_of_tail_false htail, afterTransfer_slot, if_pos rfl]
    simp only [htail, and_true]
    split <;> omega
  · have hrange : 1 ≤ s.slot.toNat ∧ s.slot.toNat ≤ 17 := by simpa [hstuff] using hstuffed
    rw [absorbed_of_tail_false (by simp), absorbed_of_tail htail, advanced (by decide),
      if_neg (by simp [htail])]
    omega

/-- A transfer keeps crc in step with the bytes absorbed (R165). -/
theorem afterTransfer_checksumInStep {s : State} {c : BitVec 6} {a : StfOp} (hsafe : s.Safe)
    (hs : s.st = .run) (hc : slotRom s.slot = .ok c)
    (ha : decodeStfBits (ctlStuffEn c) s.tail (s.needsEscape (s.logicalByte c)) = .ok a) :
    (s.afterTransfer c a).ChecksumInStep := by
  intro hrun
  obtain ⟨hp, hcrc⟩ := hsafe
  rw [absorbed_afterTransfer hp.slot_le hc ha hrun]
  simp only [afterTransfer_crc, afterTransfer_cfg, afterTransfer_pitch_q, afterTransfer_roll_q]
  cases hq : ctlCrcEn c && !s.tail with
  | false => simpa using hcrc hs
  | true =>
    obtain ⟨hcov, htail⟩ : ctlCrcEn c = true ∧ s.tail = false := by simpa using hq
    obtain ⟨h1, h15⟩ : 1 ≤ s.slot.toNat ∧ s.slot.toNat ≤ 15 := by
      simpa [hcov] using (slotRom_class hc).2
    have habs : s.absorbed = s.slot.toNat - 1 := by
      rw [absorbed_of_tail_false htail]
      omega
    have hbyte : (covered s.cfg.params s.pitch_q s.roll_q)[s.absorbed]? = some (s.logicalByte c) := by
      rw [habs, covered_getElem? _ _ _ h1 h15]
      exact logical_getElem?_slot hc (fun h16 => by omega)
    rw [if_pos rfl, if_pos rfl, List.take_add_one, hbyte, Option.toList_some,
      crcFold_append_singleton, ← hcrc hs]

/-- A transfer keeps both invariants. -/
theorem afterTransfer_safe {s : State} {c : BitVec 6} {a : StfOp} (hsafe : s.Safe)
    (hs : s.st = .run) (hc : slotRom s.slot = .ok c)
    (ha : decodeStfBits (ctlStuffEn c) s.tail (s.needsEscape (s.logicalByte c)) = .ok a) :
    (s.afterTransfer c a).Safe :=
  ⟨transfer_inPosition hsafe.1 hs hc ha _ fun hcov => by simp [hcov],
    afterTransfer_checksumInStep hsafe hs hc ha⟩

/-- The next cycle's port values change neither invariant. -/
theorem nextCycle_safe {s : State} : s.nextCycle.Safe ↔ s.Safe := by
  simp [State.Safe, State.ChecksumInStep, State.absorbed, nextCycle_inPosition]

/-- A captured sample starts with nothing absorbed and crc at its initial value (R110). -/
theorem capture_safe (s : State) (p r : Word) : (s.capture p r).Safe :=
  ⟨capture_inPosition s p r, fun _ => rfl⟩

/-- From slot 16 on, every covered byte is absorbed and crc holds K (R165). -/
theorem crc_eq_checksum {s : State} (hsafe : s.Safe) (hs : s.st = .run) (h16 : 16 ≤ s.slot.toNat) :
    s.crc = checksum s.cfg.params s.pitch_q s.roll_q := by
  have habs : s.absorbed = 15 := by
    unfold State.absorbed
    omega
  rw [hsafe.2 hs, habs]
  rfl

/-! ## The bytes still to be delivered -/

/-- The wire bytes of slot `k` with logical byte `v`: stuffed between the markers, with the marker outputs of the slot (R26, R140). -/
def slotWire (p : Params) (k : Nat) (v : Byte) : List WireByte :=
  (if 1 ≤ k ∧ k ≤ 17 then stuff p v else [v]).map
    fun b => { data := b, sof := decide (k = 0), last := decide (k = 18) }

/-- The wire bytes of the frame from slot `k` on. -/
def wireFrom (p : Params) (pitch roll : Word) (k : Nat) : List WireByte :=
  ((logical p pitch roll).zipIdx.drop k).flatMap fun x => slotWire p x.2 x.1

/-- The bytes of the frame in flight that are still to be delivered; none in IDLE. With a tail pending, the slot's head is out. -/
def State.pending (s : State) : List WireByte :=
  match s.st with
  | .idle => []
  | .run => (wireFrom s.cfg.params s.pitch_q s.roll_q s.slot.toNat).drop (if s.tail then 1 else 0)

theorem pending_of_idle {s : State} (hs : s.st = .idle) : s.pending = [] := by
  simp [State.pending, hs]

theorem pending_of_run {s : State} (hs : s.st = .run) :
    s.pending =
      (wireFrom s.cfg.params s.pitch_q s.roll_q s.slot.toNat).drop (if s.tail then 1 else 0) := by
  simp [State.pending, hs]

@[simp] theorem nextCycle_pending (s : State) : s.nextCycle.pending = s.pending := by
  simp [State.pending]

/-- From slot 0 on, the wire bytes are the whole frame. -/
theorem wireFrom_zero (p : Params) (pitch roll : Word) :
    wireFrom p pitch roll 0 = wireFrame p pitch roll := by
  simp [wireFrom, wireFrame, logical, interiorBytes, covered, slotWire, stuffAll]

/-- After the end marker's slot, nothing is left. -/
theorem wireFrom_past_end (p : Params) (pitch roll : Word) : wireFrom p pitch roll 19 = [] := rfl

/-- The frame from slot `k` on is the slot's own bytes, then the frame from the next slot on. -/
theorem wireFrom_eq_append (p : Params) (pitch roll : Word) {k : Nat} {v : Byte}
    (h : (logical p pitch roll)[k]? = some v) :
    wireFrom p pitch roll k = slotWire p k v ++ wireFrom p pitch roll (k + 1) := by
  unfold wireFrom
  rw [List.drop_eq_getElem?_toList_append, List.getElem?_zipIdx, h]
  simp

/-- The bytes of the slot in flight carry the cycle's marker outputs, and are stuffed if the control word says so. -/
theorem slotWire_of_run {s : State} {c : BitVec 6} (hs : s.st = .run) (hc : slotRom s.slot = .ok c)
    (v : Byte) :
    slotWire s.cfg.params s.slot.toNat v =
      (if ctlStuffEn c = true then stuff s.cfg.params v else [v]).map
        fun b => { data := b, sof := s.tx_sof, last := s.tx_last } := by
  have h0 : s.slot.toNat = 0 ↔ s.slot = 0 := (BitVec.toNat_inj (y := 0#5))
  have h18 : s.slot.toNat = 18 ↔ s.slot = 18 := (BitVec.toNat_inj (y := 18#5))
  simp only [slotWire, (slotRom_class hc).1, State.tx_sof, State.tx_last, hs, St.isRun,
    decide_eq_true_eq, h0, h18, Bool.true_and]

/-- After an advance, the bytes left are those from the next slot on. -/
theorem afterTransfer_pending_of_ne_head {s : State} {c : BitVec 6} {a : StfOp}
    (hslot : s.slot.toNat ≤ 18) (hs : s.st = .run) (ha : a ≠ .head) :
    (s.afterTransfer c a).pending =
      wireFrom s.cfg.params s.pitch_q s.roll_q (s.slot.toNat + 1) := by
  by_cases h18 : s.slot = 18
  · rw [pending_of_idle (by simp [ha, h18]), h18]
    exact (wireFrom_past_end _ _ _).symm
  · have hrun : (s.afterTransfer c a).st = .run := by
      rw [afterTransfer_st, if_neg ha, advance_st, if_neg h18, hs]
    rw [pending_of_run hrun, ← (slot_succ hslot h18).1, afterTransfer_slot, if_neg ha, advance_slot,
      if_neg h18]
    simp [ha]

/-- A transfer delivers the first of the bytes still to be delivered. -/
theorem afterTransfer_delivers {s : State} {c : BitVec 6} {a : StfOp} (hsafe : s.Safe)
    (hs : s.st = .run) (hc : slotRom s.slot = .ok c)
    (ha : decodeStfBits (ctlStuffEn c) s.tail (s.needsEscape (s.logicalByte c)) = .ok a) :
    ∃ b, (s.afterTransfer c a).wire = s.wire ++ [b] ∧
      s.pending = b :: (s.afterTransfer c a).pending := by
  have hslot := hsafe.1.slot_le
  have hfrom := wireFrom_eq_append _ _ _ (logical_getElem?_slot hc (crc_eq_checksum hsafe hs))
  rw [slotWire_of_run hs hc] at hfrom
  obtain ⟨d, hd, hwire⟩ := stuffTransfer_delivers_tx_data hs hc ha
  rw [tx_data_of_run hs hc, Option.some.injEq] at hd
  subst hd
  refine ⟨_, hwire, ?_⟩
  rw [pending_of_run hs, hfrom]
  obtain ⟨rfl, hstuff, htail⟩ | ⟨rfl, hstuff, htail, hge⟩ | ⟨rfl, hstuff, htail, hge⟩ |
    ⟨rfl, hstuff, htail, hge⟩ := decodeStfBits_ok_cases ha
  · rw [afterTransfer_pending_of_ne_head hslot hs (by decide)]
    simp [hstuff, htail]
  · have hlt : ¬ s.esc ≤ s.logicalByte c := of_decide_eq_false hge
    rw [afterTransfer_pending_of_ne_head hslot hs (by decide)]
    simp [hstuff, htail, stuff, hlt]
  · have hle : s.esc ≤ s.logicalByte c := of_decide_eq_true hge
    rw [pending_of_run (s := s.afterTransfer c .head) (by simp [hs])]
    simp [hfrom, hstuff, htail, stuff, hle]
  · have hle : s.esc ≤ s.logicalByte c := of_decide_eq_true hge
    rw [afterTransfer_pending_of_ne_head hslot hs (by decide)]
    simp [hstuff, htail, stuff, hle]

/-- Nothing is left to deliver exactly when the block is in IDLE. -/
theorem pending_eq_nil_iff {s : State} (hsafe : s.Safe) : s.pending = [] ↔ s.st = .idle := by
  cases hs : s.st with
  | idle => simp [pending_of_idle hs]
  | run =>
    obtain ⟨c, hc⟩ := hsafe.1.rom
    obtain ⟨a, ha⟩ := stuffing_decodes hsafe.1 hc
    obtain ⟨b, -, hb⟩ := afterTransfer_delivers hsafe hs hc ha
    simp [hb]

theorem run_of_pending {s : State} {n : Nat} (h : n < s.pending.length) : s.st = .run := by
  cases hs : s.st with
  | idle => simp [pending_of_idle hs] at h
  | run => rfl

/-! ## Runs of a frame in flight -/

/-- A step in a transfer cycle delivers the first of the bytes still to be delivered and keeps the invariants. -/
theorem step_transfer {s : State} (hsafe : s.Safe) (ht : Transfers s) :
    ∃ (t : State) (b : WireByte), step s = .next t.nextCycle ∧ t.Safe ∧ t.stimulus = s.stimulus ∧
      t.wire = s.wire ++ [b] ∧ s.pending = b :: t.pending := by
  obtain ⟨c, hc⟩ := hsafe.1.rom
  obtain ⟨a, ha⟩ := stuffing_decodes hsafe.1 hc
  obtain ⟨b, hwire, hpending⟩ := afterTransfer_delivers hsafe ht.1 hc ha
  exact ⟨s.afterTransfer c a, b, step_xfer hsafe.1 ht hc ha, afterTransfer_safe hsafe ht.1 hc ha,
    afterTransfer_stimulus s c a, hwire, hpending⟩

theorem readyCycles_cons (p : Ports) (ins : List Ports) :
    readyCycles (p :: ins) = readyCycles ins + if p.tx_ready = true then 1 else 0 :=
  List.countP_cons ..

theorem readyCycles_append (xs ys : List Ports) :
    readyCycles (xs ++ ys) = readyCycles xs + readyCycles ys :=
  List.countP_append

/-- While fewer cycles are ready than bytes are left, a run without reset delivers one of them per ready cycle and stays in the frame
(R131, R133). -/
theorem runs_deliver_take {s : State} {ins rest : List Ports} (hsafe : s.Safe)
    (hstim : s.stimulus = ins ++ rest) (hrst : ∀ p ∈ ins, p.rst = false)
    (hlt : readyCycles ins < s.pending.length) :
    ∃ t : State, Runs ins.length s.nextCycle t.nextCycle ∧ t.Safe ∧ t.stimulus = rest ∧
      t.wire = s.wire ++ s.pending.take (readyCycles ins) ∧
      t.pending = s.pending.drop (readyCycles ins) := by
  induction ins generalizing s with
  | nil => exact ⟨s, (runs_zero _ _).2 rfl, hsafe, hstim, by simp [readyCycles], rfl⟩
  | cons p ins ih =>
    obtain ⟨hp, hrest⟩ := List.forall_mem_cons.1 hrst
    have hnext : s.nextCycle = { s with ports := p, stimulus := ins ++ rest } :=
      nextCycle_of_cons s hstim
    have hports : s.nextCycle.ports = p := by rw [hnext]
    have hstim' : s.nextCycle.stimulus = ins ++ rest := by rw [hnext]
    have hsafe' : s.nextCycle.Safe := nextCycle_safe.2 hsafe
    have hs : s.nextCycle.st = .run := (nextCycle_st s).trans (run_of_pending hlt)
    rw [readyCycles_cons] at hlt ⊢
    cases hready : p.tx_ready with
    | false =>
      have hstep := step_stall hsafe'.1 ⟨hs, hports ▸ hp, hports ▸ hready⟩
      obtain ⟨t, hruns, ht⟩ := ih hsafe' hstim' hrest (by simpa [hready] using hlt)
      exact ⟨t, (runs_succ _ _ _).2 ⟨_, hstep, hruns⟩, by simpa using ht⟩
    | true =>
      obtain ⟨u, b, hstep, hu, hustim, huwire, hupending⟩ :=
        step_transfer hsafe' ⟨hs, hports ▸ hp, hports ▸ hready⟩
      rw [nextCycle_pending] at hupending
      rw [hupending] at hlt ⊢
      obtain ⟨t, hruns, ht⟩ := ih hu (hustim.trans hstim') hrest (by simpa [hready] using hlt)
      exact ⟨t, (runs_succ _ _ _).2 ⟨u.nextCycle, hstep, hruns⟩, by simpa [huwire] using ht⟩

/-- At the ready cycle in which the last byte is due, a run without reset has delivered all of them and the block enters IDLE (R131). -/
theorem runs_deliver_all {s : State} {before rest : List Ports} {last : Ports} (hsafe : s.Safe)
    (hstim : s.stimulus = before ++ last :: rest) (hrst : ∀ p ∈ before, p.rst = false)
    (hlast : last.rst = false ∧ last.tx_ready = true)
    (heq : readyCycles before + 1 = s.pending.length) :
    ∃ t : State, Runs (before.length + 1) s.nextCycle t.nextCycle ∧ t.wire = s.wire ++ s.pending ∧
      t.st = .idle := by
  obtain ⟨u, hruns, husafe, hustim, huwire, hupending⟩ :=
    runs_deliver_take hsafe hstim hrst (by omega)
  have hnext : u.nextCycle = { u with ports := last, stimulus := rest } := nextCycle_of_cons u hustim
  have hports : u.nextCycle.ports = last := by rw [hnext]
  have hs : u.nextCycle.st = .run := by
    rw [nextCycle_st]
    exact run_of_pending (n := 0) (by rw [hupending, List.length_drop]; omega)
  obtain ⟨t, b, hstep, htsafe, -, htwire, htpending⟩ :=
    step_transfer (nextCycle_safe.2 husafe) ⟨hs, hports ▸ hlast.1, hports ▸ hlast.2⟩
  rw [nextCycle_pending, hupending] at htpending
  have hdone : t.pending = [] := by
    have hlen := congrArg List.length htpending
    simp only [List.length_drop, List.length_cons] at hlen
    exact List.eq_nil_of_length_eq_zero (by omega)
  refine ⟨t, runs_add hruns ((runs_succ _ _ _).2 ⟨_, hstep, (runs_zero _ _).2 rfl⟩), ?_,
    (pending_eq_nil_iff htsafe).1 hdone⟩
  rw [hdone] at htpending
  rw [htwire, nextCycle_wire, huwire, List.append_assoc, ← htpending, List.take_append_drop]

/-! ## An accepted sample -/

/-- The bytes to be delivered after an accept are the sample's frame (R110, R131). -/
theorem capture_pending (s : State) (p r : Word) :
    (s.capture p r).pending = wireFrame s.cfg.params p r :=
  wireFrom_zero s.cfg.params p r

/-- The data of the frame as a consumer sees it are the frame's bytes. -/
theorem wireFrame_map_data (p : Params) (pitch roll : Word) :
    (wireFrame p pitch roll).map WireByte.data = frame p pitch roll := by
  simp [wireFrame, frame, Function.comp_def]

/-- A run whose first cycle accepts a sample is that cycle, and then the run from the captured sample. -/
theorem runs_of_accept {s t : State} {n : Nat} (hp : s.InPosition) (hacc : s.isAccept = true)
    (h : Runs n (s.capture s.ports.smp_pitch s.ports.smp_roll).nextCycle t) : Runs (1 + n) s t := by
  obtain ⟨hs, hrst, hvalid⟩ := isAccept_iff.1 hacc
  rw [Nat.add_comm]
  exact (runs_succ _ _ _).2 ⟨_, step_accept hp hs hrst hvalid, h⟩

end Sys2Proof.Machine

/-! The cycle model against the transaction model (40_formatter.md R131 to R133). -/

namespace Sys2Proof.Proofs

open Sys2Proof Sys2Proof.Machine

/-- Settles O51: after the accept the frame is still to be delivered (`capture_pending`); every transfer delivers its next byte
(`step_transfer`), so fewer than W ready cycles deliver only its first bytes (`runs_deliver_take`) and the W-th the rest (`runs_deliver_all`). -/
theorem acceptedSampleBecomesItsFrame : Obligations.AcceptedSampleBecomesItsFrame := by
  intro s ins rest hp hacc hstim hrst f
  have hsafe := capture_safe s s.ports.smp_pitch s.ports.smp_roll
  have hpending : (s.capture s.ports.smp_pitch s.ports.smp_roll).pending = f := capture_pending s _ _
  refine ⟨wireFrame_map_data _ _ _, fun hlt => ?_, ?_⟩
  · obtain ⟨t, hruns, -, -, hwire, hleft⟩ := runs_deliver_take hsafe hstim hrst (hpending ▸ hlt)
    rw [hpending] at hwire hleft
    have hrun : t.st = .run := run_of_pending (n := 0) (by rw [hleft, List.length_drop]; omega)
    exact ⟨t.nextCycle, runs_of_accept hp hacc hruns, by simpa using hwire, by simpa using hrun⟩
  · rintro before last rfl hready heq
    obtain ⟨hbefore, hlast⟩ := List.forall_mem_append.1 hrst
    rw [List.append_assoc, List.singleton_append] at hstim
    rw [readyCycles_append, readyCycles_cons, hready] at heq
    obtain ⟨t, hruns, hwire, hidle⟩ := runs_deliver_all hsafe hstim hbefore
      ⟨hlast last (List.mem_singleton_self last), hready⟩ (hpending ▸ heq)
    rw [hpending] at hwire
    refine ⟨t.nextCycle, runs_of_accept hp hacc ?_, by simpa using hwire, by simpa using hidle⟩
    simpa using hruns

end Sys2Proof.Proofs

/-! SUPPORT. The stuffing map and its inverse, list by list (41_stuffing.md R141, R147, R152), and what each stuffing operation's cycle
presents and delivers (R142 to R145). -/

namespace Sys2Proof.Machine

open Sys2Proof.Claims

/-! ## The stuffing map -/

theorem stuff_of_lt {p : Params} {v : Byte} (h : v < p.esc) : stuff p v = [v] :=
  if_neg (BitVec.not_le.2 h)

theorem stuff_of_esc_le {p : Params} {v : Byte} (h : p.esc ≤ v) : stuff p v = [p.esc, v - p.esc] :=
  if_pos h

@[simp] theorem stuffAll_nil (p : Params) : stuffAll p [] = [] := rfl

@[simp] theorem stuffAll_cons (p : Params) (v : Byte) (vs : List Byte) :
    stuffAll p (v :: vs) = stuff p v ++ stuffAll p vs := rfl

theorem length_stuff (p : Params) (v : Byte) :
    (stuff p v).length = 1 + if p.esc ≤ v then 1 else 0 := by
  unfold stuff
  split <;> rfl

/-- Stuffing a list adds one byte for each of its bytes at or above P_ESC. -/
theorem length_stuffAll (p : Params) (vs : List Byte) :
    (stuffAll p vs).length = vs.length + vs.countP fun v => decide (p.esc ≤ v) := by
  induction vs with
  | nil => rfl
  | cons v vs ih =>
    rw [stuffAll_cons, List.length_append, length_stuff, ih, List.length_cons, List.countP_cons]
    simp only [decide_eq_true_eq]
    omega

/-! ## Un-stuffing -/

/-- A head and its tail give one byte back. -/
theorem unstuff_pair (p : Params) (t : Byte) (bs : List Byte) :
    unstuff p (p.esc :: t :: bs) = (unstuff p bs).map ((t + p.esc) :: ·) := by
  rw [unstuff, if_pos rfl]

/-- A byte other than P_ESC is copied. -/
theorem unstuff_cons_of_ne {p : Params} {b : Byte} (h : b ≠ p.esc) (bs : List Byte) :
    unstuff p (b :: bs) = (unstuff p bs).map (b :: ·) := by
  cases bs with
  | nil => exact if_neg h
  | cons t bs => rw [unstuff, if_neg h]

/-- Un-stuffing takes the wire bytes of one logical byte back to it. -/
theorem unstuff_stuff_append (p : Params) (v : Byte) (bs : List Byte) :
    unstuff p (stuff p v ++ bs) = (unstuff p bs).map (v :: ·) := by
  by_cases h : p.esc ≤ v
  · rw [stuff_of_esc_le h, List.cons_append, List.singleton_append, unstuff_pair,
      BitVec.sub_add_cancel]
  · have hlt : v < p.esc := BitVec.not_le.1 h
    rw [stuff_of_lt hlt]
    exact unstuff_cons_of_ne (BitVec.ne_of_lt hlt) bs

/-! ## Escape arithmetic under a legal parameter set -/

/-- The subtraction of a tail byte does not wrap (R152). -/
theorem tail_le {esc v : Byte} (h : esc ≤ v) : v - esc ≤ 0xFF - esc := by
  bv_omega

/-- The largest tail byte is at most 0x7F, by W1 of R7. -/
theorem largest_tail_le (e : Elaboration) : 0xFF - e.params.esc ≤ 0x7F := by
  have hw1 := ((Params.legal_iff e.params).1 e.legal).1
  bv_omega

/-- Whatever is as small as a tail byte is below P_ESC, by W1 of R7. -/
theorem lt_esc_of_le_largest_tail (e : Elaboration) {t : Byte} (h : t ≤ 0xFF - e.params.esc) :
    t < e.params.esc := by
  have hw1 := ((Params.legal_iff e.params).1 e.legal).1
  bv_omega

/-- A tail byte is below P_ESC. -/
theorem tail_lt_esc (e : Elaboration) {v : Byte} (h : e.params.esc ≤ v) :
    v - e.params.esc < e.params.esc :=
  lt_esc_of_le_largest_tail e (tail_le h)

/-- The markers are above P_ESC, by W2 to W4 of R7, so nothing up to it is one. -/
theorem ne_markers_of_le_esc (e : Elaboration) {b : Byte} (h : b ≤ e.params.esc) :
    b ≠ e.params.som ∧ b ≠ e.params.eom := by
  obtain ⟨-, hsom, heom, -, hsne, hene⟩ := (Params.legal_iff e.params).1 e.legal
  constructor <;> bv_omega

/-! ## The bytes of a stuffed list -/

/-- Every byte of a stuffed list is below P_ESC, or is the head of a pair (R149). -/
theorem stuffAll_split (e : Elaboration) {vs pre post : List Byte} {b : Byte}
    (h : stuffAll e.params vs = pre ++ b :: post) :
    b < e.params.esc ∨
      (b = e.params.esc ∧ ∃ t post', post = t :: post' ∧ t ≤ 0xFF - e.params.esc) := by
  induction vs generalizing pre with
  | nil => simp at h
  | cons v vs ih =>
    by_cases hge : e.params.esc ≤ v
    · rw [stuffAll_cons, stuff_of_esc_le hge] at h
      match pre with
      | [] =>
        obtain ⟨rfl, rfl⟩ := List.cons.inj h
        exact .inr ⟨rfl, _, _, rfl, tail_le hge⟩
      | [_] =>
        obtain ⟨rfl, -⟩ := List.cons.inj (List.cons.inj h).2
        exact .inl (tail_lt_esc e hge)
      | _ :: _ :: pre => exact ih (List.cons.inj (List.cons.inj h).2).2
    · have hlt : v < e.params.esc := BitVec.not_le.1 hge
      rw [stuffAll_cons, stuff_of_lt hlt] at h
      match pre with
      | [] =>
        obtain ⟨rfl, -⟩ := List.cons.inj h
        exact .inl hlt
      | _ :: pre => exact ih (List.cons.inj h).2

/-! ## The length of a frame -/

/-- The interior of a frame: the header constants, eight sample bytes, four zero bytes and two checksum bytes (R107). -/
theorem interiorBytes_fields (p : Params) (pitch roll : Word) :
    ∃ sample check : List Byte, sample.length = 8 ∧ check.length = 2 ∧
      interiorBytes p pitch roll =
        [p.len, p.cmd, p.flag] ++ sample ++ List.replicate 4 0x00 ++ check :=
  ⟨((covered p pitch roll).drop 3).take 8, (interiorBytes p pitch roll).drop 15, rfl, rfl, rfl⟩

/-- The markers and the seventeen bytes between them, and one more for each that is escaped (R146). -/
theorem length_frame (p : Params) (pitch roll : Word) :
    (frame p pitch roll).length =
      19 + (interiorBytes p pitch roll).countP fun v => decide (p.esc ≤ v) := by
  have hlen : (interiorBytes p pitch roll).length = 17 := rfl
  simp only [frame, List.length_cons, List.length_append, List.length_nil, length_stuffAll, hlen]
  omega

/-- Beside the header constants, at most ten interior bytes are escaped: the zero bytes never are (R150). -/
theorem countP_interiorBytes (e : Elaboration) (pitch roll : Word) :
    ∃ n ≤ 10, (interiorBytes e.params pitch roll).countP (fun v => decide (e.params.esc ≤ v)) =
      [e.params.len, e.params.cmd, e.params.flag].countP (fun v => decide (e.params.esc ≤ v)) + n := by
  obtain ⟨sample, check, hsample, hcheck, hfields⟩ := interiorBytes_fields e.params pitch roll
  refine ⟨sample.countP (fun v => decide (e.params.esc ≤ v)) +
    check.countP (fun v => decide (e.params.esc ≤ v)), ?_, ?_⟩
  · have h1 : sample.countP (fun v => decide (e.params.esc ≤ v)) ≤ 8 :=
      List.countP_le_length.trans_eq hsample
    have h2 : check.countP (fun v => decide (e.params.esc ≤ v)) ≤ 2 :=
      List.countP_le_length.trans_eq hcheck
    omega
  · have hzero : (List.replicate 4 (0x00 : Byte)).countP (fun v => decide (e.params.esc ≤ v)) = 0 := by
      rw [List.countP_replicate, if_neg (by simpa using zero_lt_esc e)]
    rw [hfields, List.countP_append, List.countP_append, List.countP_append, hzero]
    omega

/-! ## The cycle of a stuffing operation -/

/-- At a slot's first wire byte, the checksum action follows the checksum qualifier (R142, R143). -/
theorem selectCrc_of_first_byte {s : State} {c : BitVec 6} (hp : s.InPosition) (ht : Transfers s)
    (hc : slotRom s.slot = .ok c) (htail : s.tail = false) :
    s.selectCrc = .ok (if ctlCrcEn c then .upd else .hold) := by
  rw [selectCrc_of_run hp ht.1 ht.2.1 hc]
  simp [ht.2.2, htail]

/-- At a tail byte the checksum is held: the logical byte was counted at its head (R144). -/
theorem selectCrc_of_tail {s : State} (hp : s.InPosition) (ht : Transfers s)
    (htail : s.tail = true) : s.selectCrc = .ok .hold := by
  obtain ⟨c, hc⟩ := hp.rom
  rw [selectCrc_of_run hp ht.1 ht.2.1 hc]
  simp [htail]

/-- The transfer cycle of a raw slot: its byte is presented and delivered unescaped, the checksum is held, and the slot advances (R145). -/
theorem rawemit_of_raw_slot {s : State} {c : BitVec 6} (hp : s.InPosition) (ht : Transfers s)
    (hc : slotRom s.slot = .ok c) (hraw : ctlStuffEn c = false) :
    exec .rawemit s = .next (
      if s.slot = 18 then
        { s with wire := emitted s (s.logicalByte c), st := .idle, slot := 0 }
      else { s with wire := emitted s (s.logicalByte c), slot := s.slot + 1 }) ∧
    s.tx_data = some (s.logicalByte c) ∧ s.selectCrc = .ok .hold := by
  have htail : s.tail = false := tail_false_of_raw hp hc hraw
  refine ⟨?_, ?_, ?_⟩
  · have h : exec .rawemit s = _ :=
      exec_stf_of_transfer (a := .rawemit) hp ht hc (by simp [decodeStfBits, hraw, htail])
    rw [h, stuffTransfer_rawemit ht.1]
    simp only [htail, emitted]
  · rw [tx_data_of_run ht.1 hc, if_pos hraw]
  · rw [selectCrc_of_first_byte hp ht hc htail, crcEn_of_raw hc hraw]
    rfl

end Sys2Proof.Machine

/-! The byte-stuffing engine (41_stuffing.md R142 to R149). -/

namespace Sys2Proof.Proofs

open Sys2Proof Sys2Proof.Machine Sys2Proof.Claims

/-- Settles O19: a stuffed byte below P_ESC with no tail pending decodes to PASS. -/
theorem passDeliversTheByte : Obligations.PassDeliversTheByte := by
  intro s c hp ht hc hstuff htail hlt
  have hnot : ¬ s.esc ≤ s.logicalByte c := BitVec.not_le.2 hlt
  refine ⟨?_, ?_, selectCrc_of_first_byte hp ht hc htail⟩
  · have h : exec .pass s = _ := exec_stf_of_transfer (a := .pass) hp ht hc
      (by simp [decodeStfBits, hstuff, htail, State.needsEscape, hnot])
    rw [h, stuffTransfer_pass ht.1 _ (slot_ne_eom_of_stuffed hc hstuff)]
    simp only [htail, emitted]
  · simp [tx_data_of_run ht.1 hc, hstuff, htail, hnot]

/-- Settles O20: a stuffed byte at or above P_ESC with no tail pending decodes to HEAD. -/
theorem headDeliversEscape : Obligations.HeadDeliversEscape := by
  intro s c hp ht hc hstuff htail hge
  refine ⟨?_, ?_, selectCrc_of_first_byte hp ht hc htail⟩
  · have h : exec .head s = _ := exec_stf_of_transfer (a := .head) hp ht hc
      (by simp [decodeStfBits, hstuff, htail, State.needsEscape, hge])
    rw [h, stuffTransfer_head ht.1]
    rfl
  · simp [tx_data_of_run ht.1 hc, hstuff, htail, hge]

/-- Settles O21: a pending tail decodes to TAIL, since its slot is stuffed and its byte is at or above P_ESC (R23 (c)); so the
difference does not wrap, and W1 puts it below P_ESC (`tail_lt_esc`). -/
theorem tailDeliversDifference : Obligations.TailDeliversDifference := by
  intro s c hp ht hc htail
  obtain ⟨c', hc', hstuff, hge⟩ := hp.tail_escaped htail
  obtain rfl : c' = c := Except.ok.inj (hc'.symm.trans hc)
  refine ⟨?_, ?_, selectCrc_of_tail hp ht htail, tail_lt_esc s.cfg hge⟩
  · have h : exec .tail s = _ := exec_stf_of_transfer (a := .tail) hp ht hc
      (by simp [decodeStfBits, hstuff, htail, State.needsEscape, hge])
    rw [h, stuffTransfer_tail ht.1 _ (slot_ne_eom_of_stuffed hc hstuff)]
    rfl
  · simp [tx_data_of_run ht.1 hc, hstuff, htail]

/-- Settles O22: slots 0 and 18 are raw (`rawemit_of_raw_slot`), with the markers as their sources. -/
theorem rawemitDeliversTheMarker : Obligations.RawemitDeliversTheMarker := by
  intro s hp ht
  constructor
  · intro hk
    have hc : slotRom s.slot = .ok 0x00 := hk ▸ rfl
    have hbyte : s.logicalByte 0x00 = s.cfg.params.som := rfl
    have h := rawemit_of_raw_slot hp ht hc rfl
    rw [hbyte] at h
    simpa [hk] using h
  · intro hk
    have hc : slotRom s.slot = .ok 0x0F := hk ▸ rfl
    have hbyte : s.logicalByte 0x0F = s.cfg.params.eom := rfl
    have h := rawemit_of_raw_slot hp ht hc rfl
    rw [hbyte] at h
    simpa [hk] using h

/-- Settles O48, byte by byte: what stuffing gives for one logical byte, un-stuffing takes back to it (`unstuff_stuff_append`). -/
theorem unstuffOfStuffIsTheBytes : Obligations.UnstuffOfStuffIsTheBytes := by
  intro p bs
  induction bs with
  | nil => rfl
  | cons v vs ih => rw [stuffAll_cons, unstuff_stuff_append, ih, Option.map_some]

/-- Settles O49: a stuffed byte is below P_ESC or a head (`stuffAll_split`), and the markers are above P_ESC
(`ne_markers_of_le_esc`). -/
theorem noMarkerInsideFrame : Obligations.NoMarkerInsideFrame := by
  intro e pitch roll pre post b h
  have hsplit := stuffAll_split e h
  have hle : b ≤ e.params.esc := by
    obtain hlt | ⟨rfl, -⟩ := hsplit
    · exact BitVec.le_of_lt hlt
    · exact BitVec.le_refl _
  obtain ⟨hsom, heom⟩ := ne_markers_of_le_esc e hle
  refine ⟨hsom, heom, hle, fun hb => ?_⟩
  obtain hlt | ⟨-, t, post', hpost, ht⟩ := hsplit
  · exact absurd hb (BitVec.ne_of_lt hlt)
  · exact ⟨t, post', hpost, ht, largest_tail_le e, lt_esc_of_le_largest_tail e ht⟩

/-- Settles O50: the length counts the escaped bytes (`length_frame`), which are the escaped header constants and at most ten others
(`countP_interiorBytes`). -/
theorem frameLengthIsBounded : Obligations.FrameLengthIsBounded := by
  intro e pitch roll p w h
  have hw : w = 19 + (interiorBytes p pitch roll).countP fun v => decide (p.esc ≤ v) :=
    length_frame p pitch roll
  have hh : h ≤ 3 := List.countP_le_length
  obtain ⟨n, hn, hcount⟩ := countP_interiorBytes e pitch roll
  have hsum : w = 19 + (h + n) := hw.trans (congrArg (19 + ·) hcount)
  exact ⟨hw, by omega, by omega, by omega, by omega⟩

end Sys2Proof.Proofs

/-! SUPPORT. The checksum accumulator: the byte update in 8 bits, its linearity and its agreement with the bitwise step (42_checksum.md R161, R166,
R167), and which checksum action a cycle selects (R162 to R164). -/

namespace Sys2Proof.Machine

/-! ## The byte update in 8 bits -/

/-- t of R161 in 8 bits: n is the accumulator's high byte XOR the absorbed byte, and t = n XOR (n >> 4). -/
def crcTemp (c : Half) (b : Byte) : Byte :=
  (c.extractLsb' 8 8 ^^^ b) ^^^ ((c.extractLsb' 8 8 ^^^ b) >>> 4)

/-- n of `crcUpd` is an 8-bit value held in 16 bits. -/
theorem crcUpd_n_eq_setWidth (c : Half) (b : Byte) :
    ((c >>> 8) ^^^ b.setWidth 16) &&& 0xFF = (c.extractLsb' 8 8 ^^^ b).setWidth 16 := by
  ext i hi
  interval_cases i <;> simp

/-- t of `crcUpd` is an 8-bit value held in 16 bits. -/
theorem crcUpd_t_eq_setWidth (n : Byte) :
    n.setWidth 16 ^^^ (n.setWidth 16 >>> 4) = (n ^^^ (n >>> 4)).setWidth 16 := by
  ext i hi
  simp

theorem crcUpd_eq_crcTemp (c : Half) (b : Byte) :
    crcUpd c b =
      ((c ^^^ ((crcTemp c b).setWidth 16 <<< 4) ^^^ ((crcTemp c b).setWidth 16 >>> 3)) <<< 8) ^^^
        (((crcTemp c b).setWidth 16 ^^^ ((crcTemp c b).setWidth 16 <<< 5)) &&& 0xFF) := by
  simp only [crcUpd, crcUpd_n_eq_setWidth, crcUpd_t_eq_setWidth, crcTemp]

/-- The high byte of the update: only the shifted term of the first form reaches it (R161). -/
theorem crcUpd_high (c : Half) (b : Byte) :
    (crcUpd c b).extractLsb' 8 8 =
      c.extractLsb' 0 8 ^^^ (crcTemp c b <<< 4) ^^^ (crcTemp c b >>> 3) := by
  rw [crcUpd_eq_crcTemp]
  ext i hi
  interval_cases i <;> simp

/-- The low byte of the update: only the masked term of the first form reaches it (R161). -/
theorem crcUpd_low (c : Half) (b : Byte) :
    (crcUpd c b).extractLsb' 0 8 = crcTemp c b ^^^ (crcTemp c b <<< 5) := by
  rw [crcUpd_eq_crcTemp]
  ext i hi
  interval_cases i <;> simp

/-- A 16-bit value is its high byte in place XOR its low byte. -/
theorem half_eq_xor_bytes (c : Half) :
    c = (c.extractLsb' 8 8).setWidth 16 <<< 8 ^^^ (c.extractLsb' 0 8).setWidth 16 := by
  ext i hi
  interval_cases i <;> simp

/-! ## Linearity -/

theorem crcTemp_xor (c₁ c₂ : Half) (b₁ b₂ : Byte) :
    crcTemp (c₁ ^^^ c₂) (b₁ ^^^ b₂) = crcTemp c₁ b₁ ^^^ crcTemp c₂ b₂ := by
  simp only [crcTemp, BitVec.extractLsb'_xor, BitVec.ushiftRight_xor_distrib]
  ac_rfl

/-- The byte update is linear over GF(2): each of its two bytes is XORs of shifts of linear bytes (R167). -/
theorem crcUpd_xor (c₁ c₂ : Half) (b₁ b₂ : Byte) :
    crcUpd (c₁ ^^^ c₂) (b₁ ^^^ b₂) = crcUpd c₁ b₁ ^^^ crcUpd c₂ b₂ := by
  have hhigh : (crcUpd (c₁ ^^^ c₂) (b₁ ^^^ b₂)).extractLsb' 8 8 =
      (crcUpd c₁ b₁ ^^^ crcUpd c₂ b₂).extractLsb' 8 8 := by
    simp only [BitVec.extractLsb'_xor, crcUpd_high, crcTemp_xor, BitVec.shiftLeft_xor_distrib,
      BitVec.ushiftRight_xor_distrib]
    ac_rfl
  have hlow : (crcUpd (c₁ ^^^ c₂) (b₁ ^^^ b₂)).extractLsb' 0 8 =
      (crcUpd c₁ b₁ ^^^ crcUpd c₂ b₂).extractLsb' 0 8 := by
    simp only [BitVec.extractLsb'_xor, crcUpd_low, crcTemp_xor, BitVec.shiftLeft_xor_distrib]
    ac_rfl
  rw [half_eq_xor_bytes (crcUpd _ _), hhigh, hlow, ← half_eq_xor_bytes]

/-- Two folds over one list differ as their initial values do after as many zero bytes (R167). -/
theorem crcFold_xor (bs : List Byte) (i₁ i₂ : Half) :
    crcFold i₁ bs ^^^ crcFold i₂ bs = crcFold (i₁ ^^^ i₂) (List.replicate bs.length 0x00) := by
  induction bs generalizing i₁ i₂ with
  | nil => rfl
  | cons b bs ih =>
    have hhead : crcUpd i₁ b ^^^ crcUpd i₂ b = crcUpd (i₁ ^^^ i₂) 0x00 := by
      rw [← crcUpd_xor, BitVec.xor_self]
      rfl
    calc crcFold i₁ (b :: bs) ^^^ crcFold i₂ (b :: bs)
      _ = crcFold (crcUpd i₁ b ^^^ crcUpd i₂ b) (List.replicate bs.length 0x00) := ih _ _
      _ = crcFold (i₁ ^^^ i₂) (List.replicate (b :: bs).length 0x00) := by rw [hhead]; rfl

/-- The bit step adds the polynomial exactly when the top bit is set (R166). -/
theorem crcShift_eq_xor (c : Half) :
    crcShift c = (c <<< 1) ^^^ (if c.getLsbD 15 then 0x1021 else 0) := by
  unfold crcShift
  split <;> simp

/-- The bit step is linear over GF(2): the shift is, and so is the polynomial's share, in the top bit. -/
theorem crcShift_xor (x y : Half) : crcShift (x ^^^ y) = crcShift x ^^^ crcShift y := by
  have hpoly : ∀ a b : Bool, (if (a ^^ b) then (0x1021 : Half) else 0) =
      (if a then 0x1021 else 0) ^^^ (if b then 0x1021 else 0) := by decide
  simp only [crcShift_eq_xor, BitVec.getLsbD_xor, BitVec.shiftLeft_xor_distrib, hpoly]
  ac_rfl

/-- The bitwise byte step is linear over GF(2): eight linear bit steps from a linear start. -/
theorem crcBit_xor (c₁ c₂ : Half) (b₁ b₂ : Byte) :
    crcBit (c₁ ^^^ c₂) (b₁ ^^^ b₂) = crcBit c₁ b₁ ^^^ crcBit c₂ b₂ := by
  have hstart : c₁ ^^^ c₂ ^^^ (b₁ ^^^ b₂).setWidth 16 <<< 8 =
      (c₁ ^^^ b₁.setWidth 16 <<< 8) ^^^ (c₂ ^^^ b₂.setWidth 16 <<< 8) := by
    rw [BitVec.setWidth_xor, BitVec.shiftLeft_xor_distrib]
    ac_rfl
  simp only [crcBit, hstart, crcShift_xor]

/-! ## The byte update is the bitwise step -/

/-- A linear function of an accumulator and a byte is given by what it does to one byte at a time. -/
theorem linear_eq_xor_bytes {f : Half → Byte → Half}
    (hf : ∀ c₁ c₂ b₁ b₂, f (c₁ ^^^ c₂) (b₁ ^^^ b₂) = f c₁ b₁ ^^^ f c₂ b₂) (c : Half) (b : Byte) :
    f c b = f ((c.extractLsb' 8 8).setWidth 16 <<< 8) 0 ^^^ f ((c.extractLsb' 0 8).setWidth 16) 0 ^^^
      f 0 b := by
  rw [← hf, ← hf, ← half_eq_xor_bytes]
  simp

/-- The two updates agree on one byte, in either half of the accumulator or as the byte absorbed: all 256 values of each. -/
theorem crcUpd_eq_crcBit_of_byte (v : Byte) :
    crcUpd (v.setWidth 16 <<< 8) 0 = crcBit (v.setWidth 16 <<< 8) 0 ∧
      crcUpd (v.setWidth 16) 0 = crcBit (v.setWidth 16) 0 ∧ crcUpd 0 v = crcBit 0 v := by
  revert v
  decide

/-- R166: two linear functions that agree on every single byte are the same. -/
theorem crcUpd_eq_crcBit (c : Half) (b : Byte) : crcUpd c b = crcBit c b := by
  obtain ⟨hhigh, -, -⟩ := crcUpd_eq_crcBit_of_byte (c.extractLsb' 8 8)
  obtain ⟨-, hlow, -⟩ := crcUpd_eq_crcBit_of_byte (c.extractLsb' 0 8)
  obtain ⟨-, -, habsorbed⟩ := crcUpd_eq_crcBit_of_byte b
  rw [linear_eq_xor_bytes crcUpd_xor, linear_eq_xor_bytes crcBit_xor, hhigh, hlow, habsorbed]

/-! ## The checksum action of a cycle -/

/-- CRC_RST is selected in a reset cycle, whatever the prior state (R77, R200). -/
theorem selectCrc_of_rst {s : State} (hrst : s.ports.rst = true) : s.selectCrc = .ok .rst := by
  simp [State.selectCrc, hrst]

/-- CRC_UPD is selected at the first transfer of a covered logical byte, and in no other cycle (R163). -/
theorem selectCrc_eq_upd_iff {s : State} (hp : s.InPosition) :
    s.selectCrc = .ok .upd ↔
      Transfers s ∧ s.tail = false ∧ 1 ≤ s.slot.toNat ∧ s.slot.toNat ≤ 15 := by
  cases hrst : s.ports.rst with
  | true => simp [selectCrc_of_rst hrst, Transfers, hrst]
  | false =>
    cases hs : s.st with
    | idle =>
      rw [selectCrc_of_idle hp hs hrst]
      cases s.ports.smp_valid <;> simp [Transfers, hs]
    | run =>
      obtain ⟨c, hc⟩ := hp.rom
      rw [selectCrc_of_run hp hs hrst hc, (slotRom_class hc).2]
      simp [Transfers, hs, hrst, and_assoc, and_comm (a := s.tail = false)]

/-- CRC_HOLD is selected in the cycles left over: no reset, no accept, no covered byte's first transfer (R164). -/
theorem selectCrc_eq_hold {s : State} (hp : s.InPosition) (hrst : s.ports.rst = false)
    (haccept : ¬ (s.st = .idle ∧ s.ports.smp_valid = true)) (hupd : s.selectCrc ≠ .ok .upd) :
    s.selectCrc = .ok .hold := by
  cases hs : s.st with
  | idle => rw [selectCrc_of_idle hp hs hrst, if_neg fun hvalid => haccept ⟨hs, hvalid⟩]
  | run =>
    obtain ⟨c, hc⟩ := hp.rom
    have hsel := selectCrc_of_run hp hs hrst hc
    split at hsel
    · exact absurd hsel hupd
    · exact hsel

/-- A slot from 16 on is not covered by the checksum (R160). -/
theorem crcEn_of_sixteen_le {k : Slot} {c : BitVec 6} (hc : slotRom k = .ok c)
    (h16 : 16 ≤ k.toNat) : ctlCrcEn c = false := by
  rw [(slotRom_class hc).2, decide_eq_false_iff_not]
  omega

/-- A frame in flight from slot 16 on keeps its accumulator through every step but a reset (R165). -/
theorem step_crc_of_sixteen_le {s t : State} (hs : s.st = .run) (h16 : 16 ≤ s.slot.toNat)
    (hrst : s.ports.rst = false) (h : step s = .next t) : t.crc = s.crc := by
  obtain ⟨hrst', -⟩ | ⟨-, -, ⟨hidle, -, -⟩ | ⟨hidle, -, -⟩ | ⟨-, rfl⟩ |
    ⟨-, c, a, hc, -, rfl⟩⟩ := step_cases h
  · simp [hrst] at hrst'
  · simp [hs] at hidle
  · simp [hs] at hidle
  · simp
  · simp [crcEn_of_sixteen_le hc h16]

/-- Every step keeps both invariants, R23 and R165. -/
theorem step_safe {s t : State} (hsafe : s.Safe) (h : step s = .next t) : t.Safe := by
  obtain ⟨-, rfl⟩ | ⟨-, -, ⟨-, -, rfl⟩ | ⟨-, -, rfl⟩ | ⟨-, rfl⟩ | ⟨⟨hs, -⟩, c, a, hc, ha, rfl⟩⟩ :=
    step_cases h
  · exact nextCycle_safe.2 ⟨resetElements_inPosition s, fun hrun => by simp at hrun⟩
  · exact nextCycle_safe.2 (capture_safe s _ _)
  · exact nextCycle_safe.2 hsafe
  · exact nextCycle_safe.2 hsafe
  · exact nextCycle_safe.2 (afterTransfer_safe hsafe hs hc ha)

end Sys2Proof.Machine

/-! The checksum accumulator (42_checksum.md R160 to R167). -/

namespace Sys2Proof.Proofs

open Sys2Proof Sys2Proof.Machine

/-- Settles O39: of the cases of `step_cases`, only a transfer changes crc or the bytes absorbed while a frame is in flight, and it changes
the two together (`afterTransfer_checksumInStep`). -/
theorem stepKeepsChecksumInStep : Obligations.StepKeepsChecksumInStep :=
  fun _ _ => step_safe

/-- Settles O24: the checksum qualifier is slots 1 to 15 (`slotRom_class`), at a transfer without a pending tail
(`selectCrc_eq_upd_iff`). -/
theorem checksumAbsorbsCoveredBytesOnce : Obligations.ChecksumAbsorbsCoveredBytesOnce := by
  intro s c hp hc
  have hiff := selectCrc_eq_upd_iff hp
  refine ⟨fun ht htail h1 h15 => ?_, hiff⟩
  have h : exec .crcUpd s = _ := exec_crc_of_selected (hiff.2 ⟨ht, htail, h1, h15⟩)
  rw [h, slotByte_of_run hp ht.1 hc]
  rfl

/-- Settles O25: what is no reset, accept or CRC_UPD selects CRC_HOLD (`selectCrc_eq_hold`). -/
theorem checksumHoldsOtherwise : Obligations.ChecksumHoldsOtherwise := by
  intro s hp hrst haccept hfirst
  exact exec_crc_of_selected
    (selectCrc_eq_hold hp hrst haccept fun hupd => hfirst ((selectCrc_eq_upd_iff hp).1 hupd))

/-- Settles O26, byte by byte: n and t of the first form fit in 8 bits (`crcUpd_eq_crcTemp`). -/
theorem byteUpdateFormsAgree : Obligations.ByteUpdateFormsAgree :=
  fun c b => ⟨crcUpd_high c b, crcUpd_low c b⟩

/-- Settles O27: both updates are linear, so agreeing on every single byte is enough (`crcUpd_eq_crcBit`). -/
theorem byteUpdateIsBitwiseCrc : Obligations.ByteUpdateIsBitwiseCrc :=
  ⟨crcUpd_eq_crcBit, by decide⟩

/-- Settles O28: the last law is the fold's for 0xE2D5 and 0xE295, which differ by 0x0040, over the 15 covered bytes. -/
theorem checksumIsLinear : Obligations.ChecksumIsLinear := by
  refine ⟨crcUpd_xor, rfl, fun i₁ i₂ bs => crcFold_xor bs i₁ i₂, fun p pitch roll => ?_⟩
  have hdiff : crcFold 0xE2D5 (covered p pitch roll) ^^^ crcFold 0xE295 (covered p pitch roll) =
      0x2BBF :=
    calc _
      _ = crcFold (0xE2D5 ^^^ 0xE295) (List.replicate 15 0x00) := crcFold_xor _ _ _
      _ = 0x2BBF := by decide
  calc checksum { p with crcInit := 0xE2D5 } pitch roll
    _ = crcFold 0xE2D5 (covered p pitch roll) := rfl
    _ = crcFold 0xE295 (covered p pitch roll) ^^^ 0x2BBF := by
      rw [← hdiff, BitVec.xor_comm, BitVec.xor_assoc, BitVec.xor_self, BitVec.xor_zero]
    _ = checksum { p with crcInit := 0xE295 } pitch roll ^^^ 0x2BBF := rfl

/-- Settles O40: from slot 16 on all 15 covered bytes are absorbed (`crc_eq_checksum`), and no slot left is covered
(`step_crc_of_sixteen_le`). -/
theorem checksumIsFinalFromSlotSixteen : Obligations.ChecksumIsFinalFromSlotSixteen := by
  intro s hsafe hs h16
  have hcrc := crc_eq_checksum hsafe hs h16
  exact ⟨hcrc, fun t hrst h => (step_crc_of_sixteen_le hs h16 hrst h).trans hcrc⟩

/-- Settles O23: a reset cycle selects CRC_RST and an accept CRC_INIT, and both give crc its initial value. -/
theorem checksumIsInitialised : Obligations.ChecksumIsInitialised := by
  intro s
  constructor
  · intro hrst
    exact exec_crc_of_selected (selectCrc_of_rst hrst)
  · intro hp hrst hs hvalid
    have hsel : s.selectCrc = .ok .init := by simp [selectCrc_of_idle hp hs hrst, hvalid]
    exact exec_crc_of_selected hsel

end Sys2Proof.Proofs

/-! SUPPORT. Where a step is refused, and which of its cycle's port values a step reads: the ones its event uses, the rest being replaced
by the next cycle's (40_formatter.md R109, 60_exceptions.md R180 to R183). -/

namespace Sys2Proof.Machine

/-! ## A step without a meaning -/

/-- A step that completes is in a reset cycle or in a legal position. -/
theorem meaning_of_step {s t : State} (h : step s = .next t) :
    s.ports.rst = true ∨ s.InPosition := by
  obtain ⟨hrst, -⟩ | ⟨-, hp, -⟩ := step_cases h
  · exact .inl hrst
  · exact .inr hp

/-- Outside R23 the position check names a refusal. -/
theorem positionRefusal_of_not_inPosition {s : State} (hp : ¬ s.InPosition) :
    ∃ r, s.positionRefusal = some r :=
  Option.ne_none_iff_exists'.1 fun hnone => hp ((coherent_iff_inPosition s).1 hnone)

/-- Without a reset, the step answers the refusal of the position check (R78). -/
theorem step_of_positionRefusal {s : State} {r : Refusal} (hrst : s.ports.rst = false)
    (hr : s.positionRefusal = some r) : step s = .refused r := by
  have hsel : s.selectEv = .error r := by simp [State.selectEv, hrst, hr]
  simp [step, hsel]

/-! ## Other port values -/

/-- The position check reads no port. -/
theorem withPorts_inPosition {s : State} {q : Ports} :
    ({ s with ports := q } : State).InPosition ↔ s.InPosition := by
  rw [← coherent_iff_inPosition, ← coherent_iff_inPosition]
  exact Iff.rfl

/-- The next cycle's port values replace this cycle's. -/
theorem withPorts_nextCycle (s : State) (q : Ports) :
    ({ s with ports := q } : State).nextCycle = s.nextCycle := by
  unfold State.nextCycle
  cases s.stimulus <;> rfl

/-- ADVANCE reads no port. -/
theorem withPorts_advance (s : State) (q : Ports) :
    ({ s with ports := q } : State).advance = { s.advance with ports := q } := by
  unfold State.advance
  split <;> rfl

/-- A stuffing action reads no port. -/
theorem withPorts_stuffTransfer (s : State) (q : Ports) (a : StfOp) (v : Byte) :
    ({ s with ports := q } : State).stuffTransfer a v = { s.stuffTransfer a v with ports := q } := by
  cases a with
  | head => rfl
  | rawemit => exact withPorts_advance { s.deliver v with tail := false } q
  | pass => exact withPorts_advance { s.deliver v with tail := false } q
  | tail => exact withPorts_advance { s.deliver (v - s.esc) with tail := false } q

/-- The state after a transfer takes nothing else from the ports. -/
theorem withPorts_afterTransfer (s : State) (q : Ports) (c : BitVec 6) (a : StfOp) :
    ({ s with ports := q } : State).afterTransfer c a = { s.afterTransfer c a with ports := q } := by
  unfold State.afterTransfer
  rw [withPorts_stuffTransfer]
  rfl

/-- Without a reset, a step outside R23 is refused for the same reason whatever the port values. -/
theorem withPorts_step_of_not_inPosition {s : State} {q : Ports} (hp : ¬ s.InPosition)
    (hrst : s.ports.rst = false) (hq : q.rst = false) :
    step { s with ports := q } = step s := by
  obtain ⟨r, hr⟩ := positionRefusal_of_not_inPosition hp
  rw [step_of_positionRefusal hrst hr]
  exact step_of_positionRefusal (s := { s with ports := q }) hq hr

/-- A reset cycle's step reads no other port. -/
theorem withPorts_step_of_reset {s : State} {q : Ports} (hrst : s.ports.rst = true)
    (hq : q.rst = true) : step { s with ports := q } = step s := by
  rw [step_reset hrst, step_reset (s := { s with ports := q }) hq]
  exact congrArg Host.Outcome.next (withPorts_nextCycle s.resetElements q)

/-- An accept's step reads rst and the sample ports alone. -/
theorem withPorts_step_of_accept {s : State} {q : Ports} (hp : s.InPosition) (hs : s.st = .idle)
    (hrst : s.ports.rst = false) (hvalid : s.ports.smp_valid = true) (hqrst : q.rst = false)
    (hqvalid : q.smp_valid = true) (hpitch : q.smp_pitch = s.ports.smp_pitch)
    (hroll : q.smp_roll = s.ports.smp_roll) : step { s with ports := q } = step s := by
  have hpq : ({ s with ports := q } : State).InPosition := withPorts_inPosition.2 hp
  calc step { s with ports := q }
    _ = .next (({ s with ports := q } : State).capture q.smp_pitch q.smp_roll).nextCycle :=
      step_accept hpq hs hqrst hqvalid
    _ = .next (s.capture s.ports.smp_pitch s.ports.smp_roll).nextCycle := by
      rw [hpitch, hroll]
      exact congrArg Host.Outcome.next (withPorts_nextCycle (s.capture _ _) q)
    _ = step s := (step_accept hp hs hrst hvalid).symm

/-- An idle wait's step reads rst and smp_valid alone. -/
theorem withPorts_step_of_idleWait {s : State} {q : Ports} (hp : s.InPosition) (hs : s.st = .idle)
    (hrst : s.ports.rst = false) (hvalid : s.ports.smp_valid = false) (hqrst : q.rst = false)
    (hqvalid : q.smp_valid = false) : step { s with ports := q } = step s := by
  have hpq : ({ s with ports := q } : State).InPosition := withPorts_inPosition.2 hp
  rw [step_idleWait hp hs hrst hvalid, step_idleWait hpq hs hqrst hqvalid, withPorts_nextCycle]

/-- A stall's step reads rst and tx_ready alone. -/
theorem withPorts_step_of_stall {s : State} {q : Ports} (hp : s.InPosition) (hs : Stalls s)
    (hrst : q.rst = false) (hready : q.tx_ready = false) :
    step { s with ports := q } = step s := by
  have hpq : ({ s with ports := q } : State).InPosition := withPorts_inPosition.2 hp
  rw [step_stall hp hs, step_stall hpq ⟨hs.1, hrst, hready⟩, withPorts_nextCycle]

/-- A transfer's step reads rst and tx_ready alone. -/
theorem withPorts_step_of_transfer {s : State} {q : Ports} (hp : s.InPosition) (ht : Transfers s)
    (hrst : q.rst = false) (hready : q.tx_ready = true) :
    step { s with ports := q } = step s := by
  obtain ⟨c, hc⟩ := hp.rom
  obtain ⟨a, ha⟩ := stuffing_decodes hp hc
  have hpq : ({ s with ports := q } : State).InPosition := withPorts_inPosition.2 hp
  calc step { s with ports := q }
    _ = .next (({ s with ports := q } : State).afterTransfer c a).nextCycle :=
      step_xfer hpq ⟨ht.1, hrst, hready⟩ hc ha
    _ = .next (s.afterTransfer c a).nextCycle := by
      rw [withPorts_afterTransfer, withPorts_nextCycle]
    _ = step s := (step_xfer hp ht hc ha).symm

end Sys2Proof.Machine

/-! Totality and the ignored inputs (60_exceptions.md R180 to R183, 70_reset_and_hazards.md R207). -/

namespace Sys2Proof.Proofs

open Sys2Proof Sys2Proof.Machine

/-- Settles O35: a cycle with a meaning completes (`step_completes`), and one without gets the refusal of its position
(`step_of_positionRefusal`). -/
theorem stepCompletesExactlyInsideInvariant : Obligations.StepCompletesExactlyInsideInvariant := by
  intro s
  refine ⟨⟨fun ⟨_, ht⟩ => meaning_of_step ht, step_completes⟩, fun ⟨r, hr⟩ hmeaning => ?_,
    fun hnone => ?_⟩
  · obtain ⟨t, ht⟩ := step_completes hmeaning
    simp [hr] at ht
  · obtain ⟨hrst, hp⟩ := not_or.1 hnone
    obtain ⟨r, hr⟩ := positionRefusal_of_not_inPosition hp
    exact ⟨r, step_of_positionRefusal (Bool.eq_false_of_not_eq_true hrst) hr⟩

/-- Settles O42: whether stalled or transferring, the step of a frame in flight reads none of the sample ports. -/
theorem busyIgnoresOfferedSample : Obligations.BusyIgnoresOfferedSample := by
  intro s valid p r hs hrst
  by_cases hp : s.InPosition
  · cases hready : s.ports.tx_ready with
    | false => exact withPorts_step_of_stall hp ⟨hs, hrst, hready⟩ hrst hready
    | true => exact withPorts_step_of_transfer hp ⟨hs, hrst, hready⟩ hrst hready
  · exact withPorts_step_of_not_inPosition hp hrst hrst

/-- Settles O43: the events of IDLE, a reset, an accept and an idle wait, do not read tx_ready. -/
theorem idleIgnoresReady : Obligations.IdleIgnoresReady := by
  intro s ready hs
  cases hrst : s.ports.rst with
  | true => exact withPorts_step_of_reset hrst hrst
  | false =>
    by_cases hp : s.InPosition
    · cases hvalid : s.ports.smp_valid with
      | true => exact withPorts_step_of_accept hp hs hrst hvalid hrst hvalid rfl rfl
      | false => exact withPorts_step_of_idleWait hp hs hrst hvalid hrst hvalid
    · exact withPorts_step_of_not_inPosition hp hrst hrst

end Sys2Proof.Proofs

/-! SUPPORT. Reset (70_reset_and_hazards.md R200, R202), and runs with the consumer ready in every cycle (R212). -/

namespace Sys2Proof.Machine

/-- RESET leaves the reset values, whatever the prior state (R200). -/
theorem exec_reset {s : State} (hrst : s.ports.rst = true) :
    exec .reset s = .next s.resetElements :=
  runSelected_next_iff.2 ⟨selectEv_of_rst hrst, rfl⟩

/-- A reset cycle accepts no sample (R24). -/
theorem isAccept_eq_false_of_rst {s : State} (hrst : s.ports.rst = true) : s.isAccept = false := by
  simp [State.isAccept, hrst]

/-- A reset cycle after fewer ready cycles than bytes are left: one byte is delivered per ready cycle, and none in the reset cycle
(R202). -/
theorem runs_truncate_at_reset {s : State} {ins rest : List Ports} {r : Ports} (hsafe : s.Safe)
    (hstim : s.stimulus = ins ++ r :: rest) (hins : ∀ p ∈ ins, p.rst = false) (hr : r.rst = true)
    (hlt : readyCycles ins < s.pending.length) :
    ∃ t : State, Runs (ins.length + 1) s.nextCycle t.resetElements.nextCycle ∧
      t.wire = s.wire ++ s.pending.take (readyCycles ins) := by
  obtain ⟨u, hruns, -, hustim, huwire, -⟩ := runs_deliver_take hsafe hstim hins hlt
  have hports : u.nextCycle.ports = r := by rw [nextCycle_of_cons u hustim]
  have hreset : step u.nextCycle = .next u.nextCycle.resetElements.nextCycle :=
    step_reset (hports ▸ hr)
  exact ⟨u.nextCycle, runs_add hruns ((runs_succ _ _ _).2 ⟨_, hreset, (runs_zero _ _).2 rfl⟩),
    (nextCycle_wire u).trans huwire⟩

/-- When every cycle is ready, the ready cycles are all of them. -/
theorem readyCycles_eq_length {ins : List Ports} (h : ∀ p ∈ ins, p.tx_ready = true) :
    readyCycles ins = ins.length :=
  List.countP_eq_length.2 h

end Sys2Proof.Machine

/-! Reset, back-pressure and timing (70_reset_and_hazards.md R200 to R212). -/

namespace Sys2Proof.Proofs

open Sys2Proof Sys2Proof.Machine

/-- Settles O45: a stall holds the block (`step_stall`), so a run of stalls changes the environment's inputs alone. -/
theorem stallMayLastForever : Obligations.StallMayLastForever := by
  intro s ins rest hp ⟨hst, hrst, hready⟩ hstim hins
  obtain ⟨q, hrun⟩ := runs_of_quiet (quiet := fun p => p.rst = false ∧ p.tx_ready = false)
    (fun _ hu hst ⟨hr, hv⟩ => step_stall hu ⟨hst, hr, hv⟩)
    hp hst ⟨hrst, hready⟩ hstim hins
  exact ⟨_, hrun, hst, rfl, rfl, rfl, rfl, rfl, rfl⟩

/-- Settles O52 from O51: with every cycle ready, n cycles deliver n bytes, the block staying in RUN for n < W; for n = W the last cycle is
the W-th ready one, which leads to IDLE. -/
theorem fullThroughputTiming : Obligations.FullThroughputTiming := by
  intro s ins rest hp hacc hstim hins f hle
  have hready : readyCycles ins = ins.length := readyCycles_eq_length fun p hmem => (hins p hmem).2
  obtain ⟨-, hpart, hwhole⟩ :=
    acceptedSampleBecomesItsFrame s ins rest hp hacc hstim fun p hmem => (hins p hmem).1
  obtain hlt | heq := hle.lt_or_eq
  · obtain ⟨t, hruns, hwire, hrun⟩ := hpart (hready ▸ hlt)
    exact ⟨t, hruns, hready ▸ hwire, by simp [hrun, hlt.ne]⟩
  · obtain rfl | ⟨before, last, rfl⟩ := ins.eq_nil_or_concat'
    · cases heq
    · have hlast : last.tx_ready = true := (hins last (by simp)).2
      obtain ⟨t, hruns, hwire, hidle⟩ := hwhole before last rfl hlast (hready.trans heq)
      exact ⟨t, hruns, by rw [hwire, heq, List.take_length], by simp [hidle, heq]⟩

/-- Settles O53: after the accept the frame is still to be delivered (`capture_pending`), and the reset cycle cuts it off after one byte
per ready cycle (`runs_truncate_at_reset`). -/
theorem resetTruncatesTheFrame : Obligations.ResetTruncatesTheFrame := by
  intro s ins rest r hp hacc hstim hins hr f hlt
  have hpending : (s.capture s.ports.smp_pitch s.ports.smp_roll).pending = f := capture_pending s _ _
  obtain ⟨t, hruns, hwire⟩ :=
    runs_truncate_at_reset (capture_safe s _ _) hstim hins hr (hpending ▸ hlt)
  have hlength : 2 + ins.length = 1 + (ins.length + 1) := by omega
  rw [hpending] at hwire
  exact ⟨t.resetElements.nextCycle, hlength ▸ runs_of_accept hp hacc hruns, by simpa using hwire,
    by simp⟩

/-- Settles O7: the event vector 1xxx selects RESET in any state (`exec_reset`), and no handshake is made while rst = 1. -/
theorem resetTakesEveryResetValue : Obligations.ResetTakesEveryResetValue := fun s hrst =>
  ⟨isAccept_eq_false_of_rst hrst, isTransfer_eq_false (.inl hrst), s.resetElements, exec_reset hrst,
    rfl, rfl, rfl⟩

end Sys2Proof.Proofs

/-! SUPPORT. Operations that their format does not select in the cycle, and their refusal (30_encoding.md R70 to R78, log entries 5 and 6). -/

namespace Sys2Proof.Machine

/-! ## The refusal of an operation that is not selected -/

/-- An operation is refused when its format selects another one in this cycle. -/
theorem runSelected_of_ne {α : Type} [DecidableEq α] {o op : α} (h : o ≠ op) (k : Result) :
    runSelected (.ok o) op k = .refused .notSelected := if_neg h

/-- Every event runs when the event vector selects it (R70). -/
theorem exec_ev_eq (e : EvOp) (s : State) :
    ∃ k, exec e.toInstr s = runSelected s.selectEv e k := by
  cases e <;> exact ⟨_, rfl⟩

/-- In IDLE no control word is read, so no slot micro-operation is selected (R74). -/
theorem selectCtl_of_idle {s : State} (hp : s.InPosition) (hs : s.st = .idle) :
    s.selectCtl = .error .notSelected := by
  simp [State.selectCtl, controlWord_of_idle hp hs]

/-- In IDLE no stuffing vector is decoded (R76). -/
theorem selectStf_of_idle {s : State} (hp : s.InPosition) (hs : s.st = .idle) :
    s.selectStf = .error .notSelected := by
  simp [State.selectStf, controlWord_of_idle hp hs]

/-- In a legal position the checksum vector is never reserved (R77). -/
theorem selectCrc_completes {s : State} (hp : s.InPosition) : ∃ k, s.selectCrc = .ok k := by
  cases hrst : s.ports.rst with
  | true => exact ⟨_, selectCrc_of_rst hrst⟩
  | false =>
    cases hs : s.st with
    | idle => exact ⟨_, selectCrc_of_idle hp hs hrst⟩
    | run =>
      obtain ⟨c, hc⟩ := hp.rom
      exact ⟨_, selectCrc_of_run hp hs hrst hc⟩

/-- Outside R23, without a reset, every operation answers the refusal of the position check: all four selections fail with it (R78). -/
theorem exec_of_positionRefusal {s : State} {r : Refusal} (hrst : s.ports.rst = false)
    (hr : s.positionRefusal = some r) (i : Instr) : exec i s = .refused r := by
  have hword : s.controlWord = .error r := by simp [State.controlWord, hr]
  obtain ⟨e, rfl⟩ | ⟨op, rfl⟩ | ⟨a, rfl⟩ | ⟨k, rfl⟩ := instr_cases_format i
  · have hsel : s.selectEv = .error r := by simp [State.selectEv, hrst, hr]
    obtain ⟨k, hk⟩ := exec_ev_eq e s
    rw [hk, hsel]; rfl
  · have hsel : s.selectCtl = .error r := by simp [State.selectCtl, hword]
    obtain ⟨cls, v, hop⟩ := runSlotOp_eq op s
    rw [exec_ctl, hop, hsel]; rfl
  · have hsel : s.selectStf = .error r := by simp [State.selectStf, hword]
    rw [exec_stf_eq, hsel]; rfl
  · have hsel : s.selectCrc = .error r := by simp [State.selectCrc, hrst, hr]
    rw [exec_crc_eq, hsel]; rfl

/-- An event other than the decoded one is refused (R70). -/
theorem exec_ev_unselected {s : State} {e : EvOp} (hp : s.InPosition)
    (h : decode .ev ((Claims.eventVector s).setWidth 8) ≠ .ok e.toInstr) :
    exec e.toInstr s = .refused .notSelected := by
  rw [decode_eventVector] at h
  obtain ⟨k, hk⟩ := exec_ev_eq e s
  rw [hk, selectEv_of_inPosition hp]
  exact runSelected_of_ne (by rintro rfl; exact h rfl) k

/-- A slot micro-operation is refused in IDLE and in a slot of another control word (R74). -/
theorem exec_ctl_unselected {s : State} {op : CtlOp} (hp : s.InPosition)
    (h : s.st = .idle ∨ ∀ c, slotRom s.slot = .ok c → decodeCtl c ≠ .ok op) :
    exec op.toInstr s = .refused .notSelected := by
  obtain ⟨cls, v, hop⟩ := runSlotOp_eq op s
  rw [exec_ctl, hop]
  cases hs : s.st with
  | idle => rw [selectCtl_of_idle hp hs]; rfl
  | run =>
    obtain ⟨c, hc⟩ := hp.rom
    obtain ⟨o, ho⟩ := decodeCtl_of_slotRom hc
    have hother := h.resolve_left (by simp [hs]) c hc
    rw [selectCtl_of_run hp hs hc ho]
    exact runSelected_of_ne (by rintro rfl; exact hother ho) _

/-- A stuffing operation is refused in IDLE and in a cycle of another stuffing vector (R76). -/
theorem exec_stf_unselected {s : State} {a : StfOp} (hp : s.InPosition)
    (h : s.st = .idle ∨ ∀ c, slotRom s.slot = .ok c →
      decodeStfBits (ctlStuffEn c) s.tail (s.needsEscape (s.logicalByte c)) ≠ .ok a) :
    exec a.toInstr s = .refused .notSelected := by
  rw [exec_stf_eq]
  cases hs : s.st with
  | idle => rw [selectStf_of_idle hp hs]; rfl
  | run =>
    obtain ⟨c, hc⟩ := hp.rom
    obtain ⟨o, ho⟩ := stuffing_decodes hp hc
    have hother := h.resolve_left (by simp [hs]) c hc
    rw [selectStf_of_run hp hs hc ho]
    exact runSelected_of_ne (by rintro rfl; exact hother ho) _

/-- A checksum action other than the selected one is refused (R77). -/
theorem exec_crc_unselected {s : State} {k : CrcOp} (hp : s.InPosition)
    (h : s.selectCrc ≠ .ok k) : exec k.toInstr s = .refused .notSelected := by
  obtain ⟨o, ho⟩ := selectCrc_completes hp
  rw [exec_crc_eq, ho]
  exact runSelected_of_ne (by rintro rfl; exact h ho) _

end Sys2Proof.Machine

/-! Where an operation stops (30_encoding.md sections 1 and 3). -/

namespace Sys2Proof.Proofs

open Sys2Proof Sys2Proof.Machine

/-- Settles O41: outside R23 every selection fails with the refusal of the position check (`exec_of_positionRefusal`); inside it each format
selects one operation, or in IDLE none for CTL and STF, and the others are refused. -/
theorem unselectedOperationsAreRefused : Obligations.UnselectedOperationsAreRefused := by
  intro s
  refine ⟨fun hnone i => ?_, fun hp => ⟨fun _ => exec_ev_unselected hp, fun _ => exec_ctl_unselected hp,
    fun _ => exec_stf_unselected hp, fun _ => exec_crc_unselected hp⟩⟩
  obtain ⟨hrst, hp⟩ := not_or.1 hnone
  obtain ⟨r, hr⟩ := positionRefusal_of_not_inPosition hp
  exact ⟨r, exec_of_positionRefusal (Bool.eq_false_of_not_eq_true hrst) hr i⟩

end Sys2Proof.Proofs

/-! SUPPORT. The cycle in which a table word is placed: the position and the ports that decode it, and the step of that cycle against the
word's operation (30_encoding.md section 1, log entry 7). -/

namespace Sys2Proof.Machine

/-! ## A cycle's step against the operation of each format -/

/-- The step is the selected event (R70, R109). -/
theorem step_of_selectEv {s : State} {e : EvOp} (hmeaning : s.ports.rst = true ∨ s.InPosition)
    (hsel : s.selectEv = .ok e) :
    ∃ t, exec e.toInstr s = .next t ∧ step s = .next t.nextCycle := by
  obtain ⟨u, hu⟩ := step_completes hmeaning
  obtain ⟨t, ht, rfl⟩ := exec_of_step hsel hu
  exact ⟨t, ht, hu⟩

/-- In a transfer cycle the step is the slot's micro-operation (R113). -/
theorem step_of_ctl {s : State} {c : BitVec 6} {op : CtlOp} (hp : s.InPosition) (ht : Transfers s)
    (hc : slotRom s.slot = .ok c) (hd : decodeCtl c = .ok op) :
    ∃ t, exec op.toInstr s = .next t ∧ step s = .next t.nextCycle := by
  obtain ⟨a, ha⟩ := stuffing_decodes hp hc
  exact ⟨_, exec_ctl_of_transfer hp ht hc hd ha, step_xfer hp ht hc ha⟩

/-- In a transfer cycle the step is the stuffing operation but for crc (R142 to R145, log entry 14). -/
theorem step_of_stf {s : State} {c : BitVec 6} {a : StfOp} (hp : s.InPosition) (ht : Transfers s)
    (hc : slotRom s.slot = .ok c)
    (ha : decodeStfBits (ctlStuffEn c) s.tail (s.needsEscape (s.logicalByte c)) = .ok a) :
    ∃ t u : State, exec a.toInstr s = .next t ∧ step s = .next u.nextCycle ∧ u = { t with crc := u.crc } :=
  ⟨_, _, exec_stf_of_transfer hp ht hc ha, step_xfer hp ht hc ha, rfl⟩

/-- The step's crc is what the selected checksum action leaves (R162 to R164, R200). -/
theorem step_crc {s u : State} {k : CrcOp} (hsel : s.selectCrc = .ok k) (h : step s = .next u) :
    u.crc = crcNext k s.cfg.params s.slotByte s.crc := by
  obtain ⟨hrst, rfl⟩ | ⟨hrst, hp, ⟨hs, hv, rfl⟩ | ⟨hs, hv, rfl⟩ | ⟨⟨hs, -, hready⟩, rfl⟩ |
    ⟨⟨hs, -, hready⟩, c, a, hc, -, rfl⟩⟩ := step_cases h
  · rw [selectCrc_of_rst hrst] at hsel
    cases hsel; simp [crcNext]
  · rw [selectCrc_of_idle hp hs hrst, if_pos hv] at hsel
    cases hsel; simp [crcNext]
  · rw [selectCrc_of_idle hp hs hrst, if_neg (by simp [hv])] at hsel
    cases hsel; simp [crcNext]
  · obtain ⟨c, hc⟩ := hp.rom
    rw [selectCrc_of_run hp hs hrst hc, hready] at hsel
    cases hsel; simp [crcNext]
  · rw [selectCrc_of_run hp hs hrst hc, hready] at hsel
    rw [slotByte_of_run hp hs hc]
    cases hsel
    cases hq : ctlCrcEn c && !s.tail <;> simp [hq, crcNext]

/-- The step has the crc of the selected checksum action (log entry 14). -/
theorem step_of_crc {s : State} {k : CrcOp} (hmeaning : s.ports.rst = true ∨ s.InPosition)
    (hsel : s.selectCrc = .ok k) :
    ∃ t u : State, exec k.toInstr s = .next t ∧ step s = .next u.nextCycle ∧ u.crc = t.crc := by
  obtain ⟨u, -, hu⟩ := step_of_selectEv hmeaning (selectEv_of_meaning hmeaning)
  refine ⟨_, u, exec_crc_of_selected hsel, hu, ?_⟩
  simpa using step_crc hsel hu

/-! ## Placing an event vector -/

theorem toIdle_inPosition (s : State) : s.toIdle.InPosition :=
  inPosition_of_tail_false (fun _ => rfl) (by simp) rfl

theorem toRun_inPosition {s : State} (hp : s.InPosition) : s.toRun.InPosition := by
  unfold State.toRun
  split
  · exact hp
  · exact inPosition_of_tail_false nofun (by simp) rfl

@[simp] theorem toRun_st (s : State) : s.toRun.st = .run := by
  unfold State.toRun
  split
  · assumption
  · rfl

/-- The placed event vector selects its event, in a legal position (R70). -/
theorem placeVector_ev {s : State} (hp : s.InPosition) (w : Nat) :
    (s.placeVector .ev w).InPosition ∧
      (s.placeVector .ev w).selectEv = .ok (decodeEv (BitVec.ofNat 4 w)) := by
  have hpos : (s.placeVector .ev w).InPosition := by
    simp only [State.placeVector, withPorts_inPosition]
    split
    · exact toRun_inPosition hp
    · exact toIdle_inPosition s
  have hst : (s.placeVector .ev w).st.isRun = (BitVec.ofNat 4 w).getLsbD 2 := by
    change (if (BitVec.ofNat 4 w).getLsbD 2 then s.toRun else s.toIdle).st.isRun = _
    cases (BitVec.ofNat 4 w).getLsbD 2 <;> simp [St.isRun]
  refine ⟨hpos, ?_⟩
  rw [selectEv_of_inPosition hpos, hst]
  rfl

/-! ## Placing a control word -/

theorem toSlot_inPosition (s : State) {k : Slot} (hk : k.toNat ≤ 18) : (s.toSlot k).InPosition :=
  inPosition_of_tail_false nofun hk rfl

theorem toSlot_transfers (s : State) (k : Slot) : Transfers (s.toSlot k) := ⟨rfl, rfl, rfl⟩

/-- A control word of the slot ROM is placed in a slot that holds it (R74). -/
theorem toControlWord_of_slotRom (s : State) {v : BitVec 6} (h : ∃ k : Slot, slotRom k = .ok v) :
    ∃ k : Slot, slotRom k = .ok v ∧ s.toControlWord v = s.toSlot k := by
  unfold State.toControlWord
  split
  next k hk => exact ⟨_, by simpa using List.find?_some hk, rfl⟩
  next hnone =>
    obtain ⟨k, hk⟩ := h
    have hle : k.toNat ≤ 18 := (slotRom_ok_iff_le k).1 ⟨v, hk⟩
    have hne := List.find?_eq_none.1 hnone k.toNat (List.mem_range.2 (by omega))
    simp [hk] at hne

/-- A control word that decodes is placed in a transfer cycle of a slot that holds it (R74). -/
theorem toControlWord_transfers (s : State) {v : BitVec 6} {op : CtlOp} (h : decodeCtl v = .ok op) :
    (s.toControlWord v).InPosition ∧ Transfers (s.toControlWord v) ∧
      slotRom (s.toControlWord v).slot = .ok v := by
  obtain ⟨k, hk, heq⟩ := toControlWord_of_slotRom s (slotRom_of_decodeCtl h)
  rw [heq]
  exact ⟨toSlot_inPosition s ((slotRom_ok_iff_le k).1 ⟨v, hk⟩), toSlot_transfers s k, hk⟩

/-! ## Placing a stuffing vector -/

/-- The pitch word of all ones has 0xFF in slot 4, in both byte orders: it needs an escape under every P_ESC (R76). -/
theorem needsEscape_of_pitch_ones {s : State} (h : s.pitch_q = 0xFFFFFFFF) :
    s.needsEscape (s.logicalByte 0x34) = true := by
  have hbyte : s.logicalByte 0x34 = 0xFF := by
    change floatByte s.cfg.params.floatOrder 0 s.pitch_q = 0xFF
    rw [h]
    cases s.cfg.params.floatOrder <;> rfl
  rw [hbyte]
  exact decide_eq_true (by bv_omega : s.esc ≤ 0xFF)

/-- A stuffing vector that decodes is placed in a transfer cycle that decodes it (R76). -/
theorem toStuffing_transfers (s : State) {v : BitVec 3} {a : StfOp} (h : decodeStf v = .ok a) :
    (s.toStuffing v).InPosition ∧ Transfers (s.toStuffing v) ∧
      ∃ c, slotRom (s.toStuffing v).slot = .ok c ∧
        decodeStfBits (ctlStuffEn c) (s.toStuffing v).tail
          ((s.toStuffing v).needsEscape ((s.toStuffing v).logicalByte c)) = .ok a := by
  simp only [State.toStuffing, h]
  cases a with
  | rawemit =>
    exact ⟨toSlot_inPosition s (by decide), toSlot_transfers s 0, 0x00, rfl, rfl⟩
  | pass =>
    have hlow : (s.toSlot 12).needsEscape ((s.toSlot 12).logicalByte 0x3C) = false :=
      decide_eq_false (zero_lt_esc s.cfg)
    exact ⟨toSlot_inPosition s (by decide), toSlot_transfers s 12, 0x3C, rfl, by rw [hlow]; rfl⟩
  | head =>
    have hesc := needsEscape_of_pitch_ones (s := { s.toSlot 4 with pitch_q := 0xFFFFFFFF }) rfl
    exact ⟨inPosition_of_tail_false nofun (by simp) rfl, toSlot_transfers s 4, 0x34, rfl,
      by rw [hesc]; rfl⟩
  | tail =>
    have hesc :=
      needsEscape_of_pitch_ones (s := { s.toSlot 4 with pitch_q := 0xFFFFFFFF, tail := true }) rfl
    exact ⟨⟨nofun, (by simp),
        fun _ => ⟨0x34, rfl, rfl, of_decide_eq_true hesc⟩⟩,
      toSlot_transfers s 4, 0x34, rfl, by rw [hesc]; rfl⟩

/-! ## Placing a checksum vector -/

/-- A checksum vector that decodes is placed in a cycle that has a meaning and selects it (R77). -/
theorem toChecksumAction_selects (s : State) {v : BitVec 3} {k : CrcOp} (h : decodeCrcv v = .ok k) :
    ((s.toChecksumAction v).ports.rst = true ∨ (s.toChecksumAction v).InPosition) ∧
      (s.toChecksumAction v).selectCrc = .ok k := by
  unfold State.toChecksumAction
  rw [h]
  cases k with
  | rst => exact ⟨.inl rfl, selectCrc_of_rst rfl⟩
  | init =>
    have hp := withPorts_inPosition (q := { s.ports with rst := false, smp_valid := true }).2
      (toIdle_inPosition s)
    exact ⟨.inr hp, selectCrc_of_idle hp rfl rfl⟩
  | upd =>
    have hp : (s.toSlot 1).InPosition := toSlot_inPosition s (by decide)
    exact ⟨.inr hp, (selectCrc_eq_upd_iff hp).2 ⟨toSlot_transfers s 1, rfl, by simp, by simp⟩⟩
  | hold =>
    have hp := withPorts_inPosition (q := { s.ports with rst := false, smp_valid := false }).2
      (toIdle_inPosition s)
    exact ⟨.inr hp, selectCrc_of_idle hp rfl rfl⟩

/-! ## Table words -/

/-- A table word is read by the decoder of its format. -/
theorem decode_of_decodeTableWord {n w : Nat} {i : Instr} (h : decodeTableWord n w = some i) :
    decode (tableFormat n w) (BitVec.ofNat 8 w) = .ok i := by
  unfold decodeTableWord at h
  split at h
  next =>
    split at h
    next hdec => cases h; exact hdec
    next => cases h
  next => cases h

end Sys2Proof.Machine

/-! The placing of a table word (30_encoding.md section 1). -/

namespace Sys2Proof.Proofs

open Sys2Proof Sys2Proof.Machine

/-- Settles O6, format by format: the placed cycle has a meaning and selects the word's operation (`placeVector_ev`,
`toControlWord_transfers`, `toStuffing_transfers`, `toChecksumAction_selects`), and the step is that operation, or the whole of which it is
a part (`step_of_selectEv`, `step_of_ctl`, `step_of_stf`, `step_of_crc`). -/
theorem placedTableWordRunsNext : Obligations.PlacedTableWordRunsNext := by
  intro s n w i hp hword
  have hdec := decode_of_decodeTableWord hword
  unfold State.withFetchWord
  generalize tableFormat n w = f at hdec
  obtain ⟨hfmt, hlt, -⟩ := decode_eq_ok_iff.1 hdec
  rw [hfmt]
  cases f
  case ev =>
    rw [decode_ev hlt, BitVec.setWidth_ofNat_of_le (by decide)] at hdec
    cases hdec
    obtain ⟨hpos, hsel⟩ := placeVector_ev hp w
    obtain ⟨t, ht, hstep⟩ := step_of_selectEv (.inr hpos) hsel
    exact ⟨t, t, ht, hstep, rfl⟩
  case ctl =>
    rw [decode_ctl hlt, BitVec.setWidth_ofNat_of_le (by decide), map_eq_ok_iff] at hdec
    obtain ⟨op, hop, rfl⟩ := hdec
    obtain ⟨hpos, htr, hc⟩ := toControlWord_transfers s hop
    obtain ⟨t, ht, hstep⟩ := step_of_ctl hpos htr hc hop
    exact ⟨t, t, ht, hstep, rfl⟩
  case stf =>
    rw [decode_stf hlt, BitVec.setWidth_ofNat_of_le (by decide), map_eq_ok_iff] at hdec
    obtain ⟨a, ha, rfl⟩ := hdec
    obtain ⟨hpos, htr, c, hc, hsel⟩ := toStuffing_transfers s ha
    exact step_of_stf hpos htr hc hsel
  case crcv =>
    rw [decode_crcv hlt, BitVec.setWidth_ofNat_of_le (by decide), map_eq_ok_iff] at hdec
    obtain ⟨k, hk, rfl⟩ := hdec
    obtain ⟨hmeaning, hsel⟩ := toChecksumAction_selects s hk
    exact step_of_crc hmeaning hsel

end Sys2Proof.Proofs
